-- ==== Sys2Proof/Word.lean ====
section
/-! DEFINITION. The words of ENC and the plainest arithmetic of the spec's notation
(spec/00_scope.md, section 6): a byte, a command word, and the rounded-up division. -/

namespace Sys2Proof

/-- A raw or wire byte, an unsigned integer in `[0, 255]` (00_scope.md, Numbers). -/
abbrev Byte := BitVec 8

/-- A command word `cmd[31:0]` (30_encoding.md R54, CMD_BITS = 32). -/
abbrev CmdWord := BitVec 32

/-- `ceil_div(a, b) = (a + b - 1) div b` (00_scope.md, Arithmetic). -/
def ceilDiv (a b : Nat) : Nat := (a + b - 1) / b

end Sys2Proof
end

