-- ==== Sys2Proof/Syntax.lean ====
section
/-! DEFINITION. The six commands of ENC, one constructor per row of spec/opcode_table.json
(30_encoding.md R55). Each operand has the width of its field in the command word (R56 to R59), so
every term is a command that some word encodes. -/

namespace Sys2Proof

/-- A command given to ENC on its command port (00_scope.md R1, 30_encoding.md R55). -/
inductive Instr where
  /-- CREATE width, height, address (format C, 30_encoding.md R56; 40_framebuffer.md R70). -/
  | create (width height : BitVec 10) (address : BitVec 8)
  /-- SET_PIXEL x, y, value (format S, R57; 40_framebuffer.md R72). -/
  | setPixel (x y : BitVec 12) (value : Bool)
  /-- DIMENSIONS (format N, R58; 40_framebuffer.md R74). -/
  | dimensions
  /-- FRAME_SIZE (format N, R58; 43_frame_composer.md R116). -/
  | frameSize
  /-- ENCODE_INTO cap (format E, R59; 43_frame_composer.md R117). -/
  | encodeInto (cap : BitVec 28)
  /-- ENCODE_TO_SINK (format N, R58; 43_frame_composer.md R118). -/
  | encodeToSink
deriving DecidableEq, Repr

end Sys2Proof
end

