-- ==== Sys2Proof/WellFormed.lean ====
section
/-! DEFINITION. Command lines (30_encoding.md R65, R66) and when a line is well formed: each operand is
a number that fits its field (R56 to R59). A term of `Instr` needs no check, because its operands
have the width of their fields; the checks stand where numbers without a width come in. -/

namespace Sys2Proof

/-- A line of the spec's assembler syntax (30_encoding.md R65), operands as written, and the one
pseudo-instruction DRAW (R66), whose coordinates may be negative in the graphics layer. -/
inductive Line where
  | create (width height address : Nat)
  | setPixel (x y value : Nat)
  | dimensions
  | frameSize
  | encodeInto (cap : Nat)
  | encodeToSink
  | draw (pixels : List (Int × Int × Bool))
deriving DecidableEq, Repr

/-- A graphics-layer coordinate that XY_BITS = 12 bits can present: itself when it is not negative,
its two's complement when it is (30_encoding.md R66, 40_framebuffer.md R73). -/
def coordFits (c : Int) : Bool := decide (-2048 ≤ c) && decide (c < 4096)

/-- A line is well formed when each operand fits its field: DIM_BITS = 10, ADDRF_BITS = 8,
XY_BITS = 12, one bit of value, CAP_BITS = 28 (00_scope.md R6, 30_encoding.md R56 to R59). -/
def Line.wellFormed : Line → Bool
  | .create width height address =>
      decide (width < 2 ^ 10) && decide (height < 2 ^ 10) && decide (address < 2 ^ 8)
  | .setPixel x y value => decide (x < 2 ^ 12) && decide (y < 2 ^ 12) && decide (value < 2)
  | .dimensions => true
  | .frameSize => true
  | .encodeInto cap => decide (cap < 2 ^ 28)
  | .encodeToSink => true
  | .draw pixels => pixels.all fun p => coordFits p.1 && coordFits p.2.1

/-- The line that writes a command down (30_encoding.md R65): its operands as plain numbers. -/
def Instr.toLine : Instr → Line
  | .create width height address => .create width.toNat height.toNat address.toNat
  | .setPixel x y value => .setPixel x.toNat y.toNat value.toNat
  | .dimensions => .dimensions
  | .frameSize => .frameSize
  | .encodeInto cap => .encodeInto cap.toNat
  | .encodeToSink => .encodeToSink

end Sys2Proof
end

