-- ==== Sys2Proof/Decode.lean ====
section
/-! DEFINITION. The command word: decoding, total on all 2^32 words (30_encoding.md R62, R63), then the
encoder, the assembler and the match and mask of the opcode table (R60). -/

namespace Sys2Proof

/-- Why a word is no command (30_encoding.md R62). -/
inductive Illegal where
  /-- `op` is 0x0 or 0x7 to 0xF -/
  | reservedOpcode (op : BitVec 4)
  /-- the word has a command's `op` and a reserved bit that is not 0 -/
  | reservedBits (op : BitVec 4)
deriving DecidableEq, Repr

/-- What a word decodes to (30_encoding.md R63): exactly one command, or illegal. -/
inductive Decoded where
  | command (i : Instr)
  | illegal (why : Illegal)
deriving DecidableEq, Repr

/-- `cmd[31:28]` (30_encoding.md R54). -/
def opField (cmd : CmdWord) : BitVec 4 := cmd.extractLsb' 28 4

/-- `decode(cmd)` of 30_encoding.md R63. -/
def decode (cmd : CmdWord) : Decoded :=
  let op := opField cmd
  if op = 0x1 then
    .command (.create (cmd.extractLsb' 18 10) (cmd.extractLsb' 8 10) (cmd.extractLsb' 0 8))
  else if op = 0x2 then
    if cmd.extractLsb' 0 3 = 0 then
      .command (.setPixel (cmd.extractLsb' 16 12) (cmd.extractLsb' 4 12) (cmd.getLsbD 3))
    else .illegal (.reservedBits op)
  else if op = 0x3 then
    if cmd.extractLsb' 0 28 = 0 then .command .dimensions else .illegal (.reservedBits op)
  else if op = 0x4 then
    if cmd.extractLsb' 0 28 = 0 then .command .frameSize else .illegal (.reservedBits op)
  else if op = 0x5 then
    .command (.encodeInto (cmd.extractLsb' 0 28))
  else if op = 0x6 then
    if cmd.extractLsb' 0 28 = 0 then .command .encodeToSink else .illegal (.reservedBits op)
  else .illegal (.reservedOpcode op)

/-- The command a word stands for, when it stands for one. -/
def Decoded.toOption : Decoded → Option Instr
  | .command i => some i
  | .illegal _ => none

/-- The word of a row of the opcode table whose low `nbits` bits are `w`, every bit above them 0. The
word is presented whole on its port, so it has no byte order (20_memory.md R33). -/
def tableWord (nbits w : Nat) : CmdWord := BitVec.ofNat 32 (w % 2 ^ nbits)

/-- The command the decoder reads from the word of a table row. -/
def decodeTableWord (nbits w : Nat) : Option Instr := (decode (tableWord nbits w)).toOption

/-! The encoder. -/

/-- The word of a command: each field at its place, reserved bits 0 (30_encoding.md R56 to R59). -/
def encode : Instr → CmdWord
  | .create width height address => 0x1#4 ++ width ++ height ++ address
  | .setPixel x y value => 0x2#4 ++ x ++ y ++ BitVec.ofBool value ++ 0#3
  | .dimensions => 0x3#4 ++ 0#28
  | .frameSize => 0x4#4 ++ 0#28
  | .encodeInto cap => 0x5#4 ++ cap
  | .encodeToSink => 0x6#4 ++ 0#28

/-- The `mask` of a command's row (30_encoding.md R60, opcode_table.json). -/
def rowMask : Instr → CmdWord
  | .create _ _ _ => 0xF0000000
  | .setPixel _ _ _ => 0xF0000007
  | .dimensions => 0xFFFFFFFF
  | .frameSize => 0xFFFFFFFF
  | .encodeInto _ => 0xF0000000
  | .encodeToSink => 0xFFFFFFFF

/-- The `match` of a command's row (30_encoding.md R60, opcode_table.json). -/
def rowMatch : Instr → CmdWord
  | .create _ _ _ => 0x10000000
  | .setPixel _ _ _ => 0x20000000
  | .dimensions => 0x30000000
  | .frameSize => 0x40000000
  | .encodeInto _ => 0x50000000
  | .encodeToSink => 0x60000000

/-! The assembler. -/

/-- A graphics-layer coordinate as the 12-bit field presents it (30_encoding.md R66: "-1 as 0xFFF"). -/
def coordField (c : Int) : BitVec 12 := BitVec.ofInt 12 c

/-- The commands a line stands for: itself, or the SET_PIXELs of a DRAW in the order written
(30_encoding.md R65, R66). Meant for well-formed lines. -/
def Line.expand : Line → List Instr
  | .create width height address =>
      [.create (BitVec.ofNat 10 width) (BitVec.ofNat 10 height) (BitVec.ofNat 8 address)]
  | .setPixel x y value => [.setPixel (BitVec.ofNat 12 x) (BitVec.ofNat 12 y) (decide (value = 1))]
  | .dimensions => [.dimensions]
  | .frameSize => [.frameSize]
  | .encodeInto cap => [.encodeInto (BitVec.ofNat 28 cap)]
  | .encodeToSink => [.encodeToSink]
  | .draw pixels => pixels.map fun p => .setPixel (coordField p.1) (coordField p.2.1) p.2.2

/-- The words of a line, or nothing when an operand does not fit its field (30_encoding.md R65). -/
def Line.assemble (l : Line) : Option (List CmdWord) :=
  if l.wellFormed then some (l.expand.map encode) else none

/-- The mnemonic of a command (30_encoding.md R55). -/
def Instr.mnemonic : Instr → String
  | .create _ _ _ => "CREATE"
  | .setPixel _ _ _ => "SET_PIXEL"
  | .dimensions => "DIMENSIONS"
  | .frameSize => "FRAME_SIZE"
  | .encodeInto _ => "ENCODE_INTO"
  | .encodeToSink => "ENCODE_TO_SINK"

/-- One pixel of a DRAW line, `(x, y, v)` (30_encoding.md R66). -/
def drawText (p : Int × Int × Bool) : String :=
  "(" ++ toString p.1 ++ ", " ++ toString p.2.1 ++ ", " ++ (if p.2.2 then "1" else "0") ++ ")"

/-- A line as the spec writes it: the mnemonic and the operands in decimal, in the order of the
signature (30_encoding.md R65, R66). -/
def Line.text : Line → String
  | .create width height address =>
      "CREATE " ++ toString width ++ ", " ++ toString height ++ ", " ++ toString address
  | .setPixel x y value => "SET_PIXEL " ++ toString x ++ ", " ++ toString y ++ ", " ++ toString value
  | .dimensions => "DIMENSIONS"
  | .frameSize => "FRAME_SIZE"
  | .encodeInto cap => "ENCODE_INTO " ++ toString cap
  | .encodeToSink => "ENCODE_TO_SINK"
  | .draw pixels => "DRAW " ++ ", ".intercalate (pixels.map drawText)

end Sys2Proof
end

