-- ==== Sys2Proof/Config.lean ====
section
/-! DEFINITION. What the implementation fixes: the document's constants, kept in one place so that an
audit changes them in one place (00_scope.md R4, 93_implementation_defined.md U15), the named open
parameters of 92_eei_decisions.md, and the one free value of the model, the environment's ports. -/

namespace Sys2Proof.Config

/-- SOF, the start-of-frame byte, sent raw (00_scope.md R4). -/
def sof : Byte := 0x02

/-- EOF, the end-of-frame byte, sent raw (00_scope.md R4). -/
def eof : Byte := 0x03

/-- ADDR_OFFSET, added to the address to form the header byte (00_scope.md R4). -/
def addrOffset : Byte := 17

/-- ADDR_LIMIT: addresses are in `[0, 16)` (00_scope.md R4). -/
def addrLimit : Nat := 16

/-- PIX_PER_BYTE, pixels per packed byte (00_scope.md R4). -/
def pixPerByte : Nat := 8

/-- CK_XOR, the checksum's complement mask (00_scope.md R4). BYTE_MOD = 256 is the wrap of `Byte`. -/
def ckXor : Byte := 0xFF

/-- CK_INC, the checksum's increment (00_scope.md R4). -/
def ckInc : Byte := 1

/-- FB_CAPACITY, the bits of backing storage (00_scope.md R6, 92 D20). Every legal CREATE fits
(`legal_create_fits` in Laws/Frame.lean), so no command tests it. -/
def fbCapacity : Nat := 1023 * 1023

/-- The two values of the open parameter CKSUM_DOMAIN (92_eei_decisions.md D22): the sum is over raw
bytes, or over the wire characters. -/
inductive CksumDomain where
  | raw
  | wire
deriving DecidableEq, Repr

/-- CKSUM_DOMAIN of this hardware: `raw` (42_checksum.md R104, 90_conflicts.md C2). -/
def cksumDomain : CksumDomain := .raw

end Sys2Proof.Config

namespace Sys2Proof

/-- What the environment does during one step: the levels on ENC's input ports (00_scope.md R9), and
what HOST writes into the buffer OB that it owns (R8). `cmd` is `some w` when HOST drives
`cmd_valid = 1` with the word `w`. -/
structure PortInputs where
  /-- the reset input `rst` -/
  rst : Bool
  /-- `cmd_valid` and `cmd[31:0]` -/
  cmd : Option CmdWord
  /-- SINK's `snk_ready` (accept) -/
  snkReady : Bool
  /-- SINK's `snk_err` (error) -/
  snkErr : Bool
  /-- HOST's own writes to OB in this step, offset and byte, the first first (00_scope.md R8,
  70_reset_and_hazards.md R164; DESIGN CHOICE, log 21, safe) -/
  obWrites : List (BitVec 28 × Byte)
deriving DecidableEq, Repr, Inhabited

/-- THE FREE VALUE. What the environment does when State lists nothing: what HOST, SINK and the reset
input do is "the environment's free choice" and a model "fixes nothing of it"
(00_scope.md R8, 20_memory.md R37, 93 U4). It has no body, so nothing can be proved of its values;
it is applied to the counter `State.draws`. DESIGN CHOICE (log 2), safe. -/
opaque Config.portInputs : Nat → PortInputs

end Sys2Proof
end

