-- ==== Sys2Proof/Machine/State.lean ====
section
/-! DEFINITION. The state of ENC (10_state.md R10 to R25) with the environment's state that ENC writes
(R23), as plain data, and the machine right after reset (R25). -/

namespace Sys2Proof.Machine

/-- PHASE, the composer's place in the frame (10_state.md R19). -/
inductive Phase where
  | idle
  | sof
  | hdr
  | res
  | pay
  | eof
  | ck
deriving DecidableEq, Repr

/-- MODE, the output mode of the encode in progress (10_state.md R22). -/
inductive OutMode where
  | bufferFill
  | stream
deriving DecidableEq, Repr

/-- RESP and one response transaction: `{status[3:0], value[31:0]}` (10_state.md R17, 30_encoding.md R61). -/
structure Response where
  status : BitVec 4
  value : BitVec 32
deriving DecidableEq, Repr

/-- The spec's faults with the `info` that `raise` takes (60_exceptions.md R140). They are reported in a
response and do not stop the machine (R146). -/
inductive EncFault where
  | invalidAddress (address : BitVec 8)
  | bufferTooSmall (cap : BitVec 28)
  | sinkWriteFailure
  | notConfigured
  | alreadyConfigured
  | illegalCommand (cmd : CmdWord)
  | invalidDimensions
deriving DecidableEq, Repr

/-- OB, the caller's output buffer (20_memory.md R34): the bytes that ENC and HOST have written since the
start of the model, by offset, in canonical form (`Memory.wf`). An offset that is not listed holds what
stood there before, which the model does not know (DESIGN CHOICE, log 4, safe). -/
abbrev Memory := List Host.Cell

/-- The instance an encode command reads: `S = (W, H, ADDR, FB)` (43_frame_composer.md, introduction).
The frame is a function of it alone (R113). -/
structure Surface where
  w : BitVec 10
  h : BitVec 10
  addr : BitVec 4
  fb : List Bool
deriving DecidableEq, Repr

/-- The whole state (10_state.md R10, R23), and four fields of the model's own at the end. -/
structure State where
  /-- CFG: an instance exists (R11) -/
  cfg : Bool
  /-- W, grid width (R12) -/
  w : BitVec 10
  /-- H, grid height (R12) -/
  h : BitVec 10
  /-- ADDR, device address (R13) -/
  addr : BitVec 4
  /-- FB, the pixel grid, element `i` the pixel of index `i` (R14) -/
  fb : List Bool
  /-- FAULTS, sticky, one bit per fault code (R15) -/
  faults : BitVec 8
  /-- RESP, the last response (R17) -/
  resp : Response
  /-- PHASE (R19) -/
  phase : Phase
  /-- NIB: the next wire byte is the low digit (R19) -/
  nib : Bool
  /-- K, index of the current payload byte (R19) -/
  k : BitVec 18
  /-- SUM, the running checksum sum (R20) -/
  sum : Byte
  /-- POS, wire bytes emitted so far in this frame (R21) -/
  pos : BitVec 18
  /-- MODE (R22) -/
  mode : OutMode
  /-- CAPR, the buffer capacity of the encode in progress (R22) -/
  capr : BitVec 28
  /-- OB, the caller's buffer (R23), which ENC and HOST, its owner, write -/
  ob : Memory
  /-- SNK, the bytes SINK has consumed since reset (R23) -/
  snk : List Byte
  /-- the model's: responses delivered to HOST, oldest first (R17; DESIGN CHOICE, log 5, safe) -/
  responses : List Response
  /-- the model's: what SINK consumed before the last reset (R25; DESIGN CHOICE, log 6, safe) -/
  snkPast : List Byte
  /-- the model's: what the environment does in the coming steps (00_scope.md R9; DESIGN CHOICE, log 1, safe) -/
  inputs : List PortInputs
  /-- the model's: how many steps' inputs have been drawn from `Config.portInputs` (DESIGN CHOICE, log 2, safe) -/
  draws : Nat
deriving DecidableEq, Repr

/-- The instance held by the state. -/
def State.surface (s : State) : Surface := ⟨s.w, s.h, s.addr, s.fb⟩

/-- Where the model stops. None of the spec's own faults is here: those are responses (`EncFault`). -/
inductive Fault where
  /-- Raised by a buffer-fill sequencer step whose POS is not below CAPR. 43_frame_composer.md R127 says
  that this never happens, and no reachable state has it (DESIGN CHOICE, log 7). Safe. -/
  | obOffsetBeyondCap (offset : Nat)
deriving DecidableEq, Repr

/-- Why the model gives no meaning. -/
inductive Refusal where
  /-- Raised by an arm of `exec` whose instruction has no meaning yet; no arm is left that does. Safe. -/
  | notModelled (mnemonic : String)
deriving DecidableEq, Repr

/-- The machine right after reset (10_state.md R25, 70_reset_and_hazards.md R160). NIB, K, SUM, POS,
MODE and CAPR are unspecified there: DESIGN CHOICE 0 (log 3), unsafe. -/
def State.reset : State where
  cfg := false
  w := 0
  h := 0
  addr := 0
  fb := []
  faults := 0
  resp := ⟨0, 0⟩
  phase := .idle
  nib := false
  k := 0
  sum := 0
  pos := 0
  mode := .bufferFill
  capr := 0
  ob := []
  snk := []
  responses := []
  snkPast := []
  inputs := []
  draws := 0

end Sys2Proof.Machine
end

