-- ==== Sys2Proof/Machine/Hex.lean ====
section
/-! DEFINITION. The hex-digit encoder (41_hex_encoder.md), a combinational unit. -/

namespace Sys2Proof.Machine

/-- `Digit(n)`, the ASCII code of the uppercase hexadecimal digit of `n` (41_hex_encoder.md R90; the
codes are 93 GK1, PRESUMED, log 11, unsafe). -/
def digit (n : BitVec 4) : Byte :=
  if n.toNat ≤ 9 then BitVec.ofNat 8 (0x30 + n.toNat) else BitVec.ofNat 8 (0x41 + (n.toNat - 10))

/-- `HexHi(b) = Digit(b[7:4])` (41_hex_encoder.md R91). -/
def hexHi (b : Byte) : Byte := digit (b.extractLsb' 4 4)

/-- `HexLo(b) = Digit(b[3:0])` (41_hex_encoder.md R91). -/
def hexLo (b : Byte) : Byte := digit (b.extractLsb' 0 4)

/-- `Hex(b)`, the high digit first (41_hex_encoder.md R91). -/
def hex (b : Byte) : List Byte := [hexHi b, hexLo b]

end Sys2Proof.Machine
end

