-- ==== Sys2Proof/Machine/Checksum.lean ====
section
/-! DEFINITION. The checksum calculator (42_checksum.md). Additions are in `Byte`, so modulo 256. -/

namespace Sys2Proof.Machine

/-- What one raw byte contributes to the sum: itself, the raw domain this hardware has (42_checksum.md
R104); under the other value of CKSUM_DOMAIN, its two wire characters (92 D22, log 9). -/
def cksumTerm (r : Byte) : Byte :=
  match Config.cksumDomain with
  | .raw => r
  | .wire => hexHi r + hexLo r

/-- The sum modulo 256 of a list of raw bytes (42_checksum.md R100). -/
def cksumSum : List Byte → Byte
  | [] => 0
  | r :: rs => cksumTerm r + cksumSum rs

/-- The checksum transform `((s xor 0xFF) + 1) mod 256` (42_checksum.md R101). -/
def cksumByte (s : Byte) : Byte := (s ^^^ Config.ckXor) + Config.ckInc

end Sys2Proof.Machine
end

