-- ==== Sys2Proof/Machine/Flags.lean ====
section
/-! DEFINITION. Status: the fault codes and the sticky FAULTS register (60_exceptions.md R140, 10_state.md
R15), the numbers of PHASE and MODE (R19, R22), and the status wires (R16). -/

namespace Sys2Proof.Machine

/-- The code of a fault (60_exceptions.md R140). -/
def EncFault.code : EncFault → BitVec 4
  | .invalidAddress _ => 1
  | .bufferTooSmall _ => 2
  | .sinkWriteFailure => 3
  | .notConfigured => 4
  | .alreadyConfigured => 5
  | .illegalCommand _ => 6
  | .invalidDimensions => 7

/-- The `info` of a fault, as a number: the argument of `raise`, 0 where the table says none
(60_exceptions.md R140). The hardware does not report it. -/
def EncFault.info : EncFault → BitVec 32
  | .invalidAddress address => address.setWidth 32
  | .bufferTooSmall cap => cap.setWidth 32
  | .illegalCommand cmd => cmd
  | .sinkWriteFailure => 0
  | .notConfigured => 0
  | .alreadyConfigured => 0
  | .invalidDimensions => 0

/-- `FAULTS[c] <- 1`, every other bit as it was (10_state.md R15, 60_exceptions.md R141). -/
def setFaultBit (faults : BitVec 8) (c : BitVec 4) : BitVec 8 := faults ||| BitVec.twoPow 8 c.toNat

/-- The 3-bit number of PHASE (10_state.md R19). -/
def Phase.code : Phase → BitVec 3
  | .idle => 0
  | .sof => 1
  | .hdr => 2
  | .res => 3
  | .pay => 4
  | .eof => 5
  | .ck => 6

/-- The bit of MODE (10_state.md R22). -/
def OutMode.code : OutMode → BitVec 1
  | .bufferFill => 0
  | .stream => 1

/-- The status wire `st_cfg` (10_state.md R16). -/
def State.stCfg (s : State) : Bool := s.cfg

/-- The status wire `st_busy = 1` exactly when `PHASE != IDLE` (10_state.md R16, R18). -/
def State.stBusy (s : State) : Bool := decide (s.phase ≠ .idle)

/-- The status wires `st_faults[7:0]` (10_state.md R16). -/
def State.stFaults (s : State) : BitVec 8 := s.faults

/-- `cmd_ready = 1` exactly when ENC is out of reset and `PHASE = IDLE` (00_scope.md R9). -/
def State.cmdReady (s : State) (p : PortInputs) : Bool := !p.rst && !s.stBusy

end Sys2Proof.Machine
end

