-- ==== Sys2Proof/Machine/Operands.lean ====
section
/-! DEFINITION. The operand forms of the commands and the derived quantities NPIX, P, L of the instance
(00_scope.md R5): every one is an exact natural number, narrowed only where a register or a field
takes it. -/

namespace Sys2Proof.Machine

/-- `NPIX = W * H` (00_scope.md R5, 10_state.md R14). -/
def Surface.npix (S : Surface) : Nat := S.w.toNat * S.h.toNat

/-- `P = ceil_div(NPIX, 8)`, the packed payload bytes (00_scope.md R5, 20_memory.md R31). -/
def Surface.payloadBytes (S : Surface) : Nat := ceilDiv S.npix Config.pixPerByte

/-- `FrameSize(W, H) = 2 * ceil_div(W * H, 8) + 8` (43_frame_composer.md R114, R116). -/
def frameSize (w h : Nat) : Nat := 2 * ceilDiv (w * h) Config.pixPerByte + 8

/-- `L`, the frame length of the instance (00_scope.md R5). -/
def Surface.frameLength (S : Surface) : Nat := frameSize S.w.toNat S.h.toNat

/-- The pixel index `x * H + y`, exact (20_memory.md R32, 40_framebuffer.md R72 (f)). -/
def Surface.pixelIndex (S : Surface) (x y : Nat) : Nat := x * S.h.toNat + y

/-- The clip test of SET_PIXEL, made on the zero-extended coordinates and not on the index
(40_framebuffer.md R72). -/
def Surface.clips (S : Surface) (x y : BitVec 12) : Bool :=
  decide (S.w.toNat ≤ x.toNat) || decide (S.h.toNat ≤ y.toNat)

/-- CREATE's `address >= 16` (40_framebuffer.md R70). -/
def addressTooBig (address : BitVec 8) : Bool := decide (Config.addrLimit ≤ address.toNat)

/-- `address[3:0]`, what ADDR takes (40_framebuffer.md R70, 10_state.md R13). -/
def addressLow (address : BitVec 8) : BitVec 4 := address.extractLsb' 0 4

/-- CREATE's `width = 0 or height = 0` (40_framebuffer.md R70). -/
def dimensionIsZero (width height : BitVec 10) : Bool := decide (width = 0) || decide (height = 0)

/-- DIMENSIONS' value `{6'b0, W, 6'b0, H}` (40_framebuffer.md R74, 30_encoding.md R61). -/
def dimensionsValue (w h : BitVec 10) : BitVec 32 := 0#6 ++ w ++ 0#6 ++ h

/-- `zext_32(L)`, the value of FRAME_SIZE and of a successful encode (30_encoding.md R61). -/
def lengthValue (l : Nat) : BitVec 32 := BitVec.ofNat 32 l

end Sys2Proof.Machine
end

