-- ==== Sys2Proof/Machine/Ops.lean ====
section
/-! DEFINITION. The named operations over memory and registers: the bits of FB, the bytes of OB, `respond`
and `raise` (taking a fault, 60_exceptions.md R141), acceptance of an encode (43_frame_composer.md
R120), `emit` and `SinkPut` (R127, R128), reset (70_reset_and_hazards.md R160) and the input ports. -/

namespace Sys2Proof.Machine

/-! FB, the frame buffer (20_memory.md R31, R32). -/

/-- `FB[i]`. Outside FB there is no pixel and the bit reads 0 (20_memory.md R31). -/
def fbRead (fb : List Bool) (i : Nat) : Bool := fb.getD i false

/-- `FB[i] <- v`, every other bit as it was (20_memory.md R39). -/
def fbWrite (fb : List Bool) (i : Nat) (v : Bool) : List Bool := fb.set i v

/-- `FB <- array of n bits, every bit 0` (40_framebuffer.md R70). -/
def fbZero (n : Nat) : List Bool := List.replicate n false

/-! OB, the output buffer (20_memory.md R34, R35). -/

/-- The canonical form: offsets strictly rising, each below 2^28 (`ob_addr[27:0]`, 00_scope.md R9). No
byte equals what an unlisted offset reads as, since that is `none`. -/
def Memory.wf : Memory → Bool
  | [] => true
  | [c] => decide (c.1 < 2 ^ 28)
  | c :: d :: m => decide (c.1 < d.1) && Memory.wf (d :: m)

/-- The byte that stands at offset `o`; `none` where neither ENC nor HOST has written since the start of
the model (20_memory.md R35; DESIGN CHOICE, log 4, safe). ENC itself never reads OB (R34). -/
def Memory.read : Memory → Nat → Option Byte
  | [], _ => none
  | c :: m, o => if c.1 = o then some c.2 else Memory.read m o

/-- `OB[o] <- b`, every other offset as it was (20_memory.md R35). -/
def Memory.write : Memory → Nat → Byte → Memory
  | [], o, b => [(o, b)]
  | c :: m, o, b =>
      if o < c.1 then (o, b) :: c :: m
      else if o = c.1 then (o, b) :: m
      else c :: Memory.write m o b

/-- HOST's own writes to the buffer it owns, in their order (00_scope.md R8, 20_memory.md R34). Nothing
stops HOST from any of them; that it keeps off the frame during an ENCODE_INTO is its duty
(70_reset_and_hazards.md R164) and a premise of claims (`State.HostKeepsOff`). -/
def Memory.hostWrites : Memory → List (BitVec 28 × Byte) → Memory
  | m, [] => m
  | m, c :: ws => Memory.hostWrites (m.write c.1.toNat c.2) ws

/-! Responses and faults. -/

/-- `respond(status, value)`: RESP takes the pair and one response transaction delivers it to HOST
(10_state.md R17). -/
def State.respond (s : State) (status : BitVec 4) (value : BitVec 32) : State :=
  { s with resp := ⟨status, value⟩, responses := s.responses ++ [⟨status, value⟩] }

/-- Taking a fault: `raise F(info)` sets the sticky bit of its code, goes to IDLE and responds
`(code, 0)`; nothing else changes (60_exceptions.md R141). There is no return from it (R146): the
command port is ready again. -/
def State.raise (s : State) (f : EncFault) : State :=
  State.respond { s with faults := setFaultBit s.faults f.code, phase := .idle } f.code 0

/-! The sequencer's start and its outputs. -/

/-- Acceptance of ENCODE_INTO after its tests: `MODE <- 0; CAPR <- cap; POS <- 0; PHASE <- P_SOF`
(43_frame_composer.md R120). -/
def State.startBufferFill (s : State) (cap : BitVec 28) : State :=
  { s with mode := .bufferFill, capr := cap, pos := 0, phase := .sof }

/-- Acceptance of ENCODE_TO_SINK after its test: `MODE <- 1; POS <- 0; PHASE <- P_SOF`
(43_frame_composer.md R120). -/
def State.startStream (s : State) : State :=
  { s with mode := .stream, pos := 0, phase := .sof }

/-- `OB[POS] <- b; POS <- POS + 1` (43_frame_composer.md R127). -/
def State.obPut (s : State) (b : Byte) : State :=
  { s with ob := s.ob.write s.pos.toNat b, pos := s.pos + 1 }

/-- `SNK <- SNK ++ [b]` (20_memory.md R37, accept) and `POS <- POS + 1` (43_frame_composer.md R127). -/
def State.snkPut (s : State) (b : Byte) : State :=
  { s with snk := s.snk ++ [b], pos := s.pos + 1 }

/-- SINK's answer to an offer (20_memory.md R37). -/
inductive SinkAnswer where
  | accept
  | error
  | notYet
deriving DecidableEq, Repr

/-- The answer the sink port's wires give: `snk_ready` accepts, `snk_err` is an error, both is an error,
neither leaves the offer standing (00_scope.md R9, 92 D30). -/
def sinkAnswer (p : PortInputs) : SinkAnswer :=
  if p.snkErr then .error else if p.snkReady then .accept else .notYet

/-- `emit(b)` and then, when the byte is out, the rest of the step `after` (43_frame_composer.md R127).
In buffer-fill mode the byte is written; POS below CAPR is what R127 guarantees, and the model stops
where it fails (DESIGN CHOICE, log 7, safe). In stream mode SINK answers: on accept the step happens,
on error the command aborts with SinkWriteFailure and the byte is not appended (R128), and otherwise
the step does not happen. -/
def emitThen (p : PortInputs) (b : Byte) (after : State → State) (s : State) :
    Host.Outcome State Fault Refusal :=
  match s.mode with
  | .bufferFill =>
      if s.pos.toNat < s.capr.toNat then .next (after (s.obPut b))
      else .fault (.obOffsetBeyondCap s.pos.toNat)
  | .stream =>
      match sinkAnswer p with
      | .accept => .next (after (s.snkPut b))
      | .error => .next (s.raise .sinkWriteFailure)
      | .notYet => .next s

/-! Reset and the input ports. -/

/-- What an asserted `rst` does (70_reset_and_hazards.md R160, R161): ENC's registers take the values of
10_state.md R25, OB keeps its bytes, no response is delivered. SNK's history starts anew, and what
SINK had consumed stays consumed in `snkPast` (R25; DESIGN CHOICE, log 6, safe). The environment's
plan is its own. -/
def State.applyReset (s : State) : State :=
  { State.reset with
    ob := s.ob
    responses := s.responses
    snkPast := s.snkPast ++ s.snk
    inputs := s.inputs
    draws := s.draws }

/-- What the environment does in the `n`-th coming step, counted from 0: from the list while it lasts,
then drawn from the free value (DESIGN CHOICE, log 1 and log 2, safe). -/
def State.portAt (s : State) (n : Nat) : PortInputs :=
  s.inputs.getD n (Config.portInputs (s.draws + (n - s.inputs.length)))

/-- What the environment does in the step being taken. -/
def State.portNow (s : State) : PortInputs := s.portAt 0

/-- The state in which ENC takes its step: this step's element of the plan is used up, and HOST's own
writes of the step stand in OB. That they come before ENC's action is a DESIGN CHOICE (log 21), safe. -/
def State.portAdvance (s : State) : State :=
  { s with
    inputs := s.inputs.tail
    draws := if s.inputs.isEmpty then s.draws + 1 else s.draws
    ob := s.ob.hostWrites s.portNow.obWrites }

/-- HOST presents `cmd` at the next step, out of reset, with ENC idle, so that ENC accepts it
(00_scope.md R9, R44: the only fetch is the acceptance of the next command word). -/
def State.presentNext (s : State) (cmd : CmdWord) : State :=
  { s with
    phase := .idle
    inputs :=
      { rst := false
        cmd := some cmd
        snkReady := false
        snkErr := false
        obWrites := [] } :: s.inputs }

end Sys2Proof.Machine
end

