-- ==== Sys2Proof/Machine/Frame.lean ====
section
/-! DEFINITION. The bit-packer (40_framebuffer.md R77 to R79), the raw fields (43_frame_composer.md R110,
R111) and the frame as a pure function of the instance (R113). -/

namespace Sys2Proof.Machine

/-- `PB(k)[j]`: the pixel of index `8 * k + j`, or a pad bit, 0 (40_framebuffer.md R77, R78). -/
def Surface.packedBit (S : Surface) (k j : Nat) : Bool :=
  if Config.pixPerByte * k + j < S.npix then fbRead S.fb (Config.pixPerByte * k + j) else false

/-- `PB(k)`, the sum of `PB(k)[j] * 2^j` over `j` in 0..7 (40_framebuffer.md R77). -/
def Surface.packedByte (S : Surface) (k : Nat) : Byte :=
  BitVec.ofNat 8 ((List.range Config.pixPerByte).map fun j => (S.packedBit k j).toNat * 2 ^ j).sum

/-- `Packed(S) = [PB(0), ..., PB(P - 1)]` (40_framebuffer.md R79). -/
def Surface.packed (S : Surface) : List Byte := (List.range S.payloadBytes).map S.packedByte

/-- The header byte `HDR = ADDR + 17` (43_frame_composer.md R110). -/
def Surface.hdr (S : Surface) : Byte := S.addr.setWidth 8 + Config.addrOffset

/-- The resolution byte `RESB = ((W * H) div 8) mod 256` (43_frame_composer.md R111). -/
def Surface.resb (S : Surface) : Byte := BitVec.ofNat 8 (S.npix / Config.pixPerByte)

/-- `Body(S) = [HDR, RESB] ++ Packed(S)` (43_frame_composer.md R113). -/
def Surface.body (S : Surface) : List Byte := [S.hdr, S.resb] ++ S.packed

/-- `SumBody(S)`: header, resolution, payload and the end byte 0x03 (42_checksum.md R100). -/
def Surface.sumBody (S : Surface) : Byte := cksumSum S.body + Config.eof

/-- `CK(S)` (42_checksum.md R101). -/
def Surface.checksum (S : Surface) : Byte := cksumByte S.sumBody

/-- `Frame(S)` (43_frame_composer.md R113). -/
def Surface.frame (S : Surface) : List Byte :=
  [Config.sof] ++ S.body.flatMap hex ++ [Config.eof] ++ hex S.checksum

end Sys2Proof.Machine
end

