-- ==== Sys2Proof/Machine/Composer.lean ====
section
/-! DEFINITION. The frame composer's commands: FRAME_SIZE, and the acceptance of ENCODE_INTO and
ENCODE_TO_SINK (43_frame_composer.md R116 to R118, R120), whose bytes the sequencer then emits. -/

namespace Sys2Proof.Machine

/-- FRAME_SIZE (43_frame_composer.md R116). -/
def execFrameSize (s : State) : Host.Outcome State Fault Refusal :=
  if s.cfg then .next (s.respond 0 (lengthValue s.surface.frameLength))
  else .next (s.raise .notConfigured)

/-- ENCODE_INTO cap (43_frame_composer.md R117): its tests, both before any write to OB, and its
acceptance (R120). The L sequencer steps that follow write OB and respond `(0, L)`. -/
def execEncodeInto (cap : BitVec 28) (s : State) : Host.Outcome State Fault Refusal :=
  if s.cfg then
    if cap.toNat < s.surface.frameLength then .next (s.raise (.bufferTooSmall cap))
    else .next (s.startBufferFill cap)
  else .next (s.raise .notConfigured)

/-- ENCODE_TO_SINK (43_frame_composer.md R118): its test and its acceptance (R120). The sequencer steps
that follow offer the frame to SINK and respond. -/
def execEncodeToSink (s : State) : Host.Outcome State Fault Refusal :=
  if s.cfg then .next s.startStream
  else .next (s.raise .notConfigured)

end Sys2Proof.Machine
end

