-- ==== Sys2Proof/Machine/FrameBuffer.lean ====
section
/-! DEFINITION. The frame buffer's commands: CREATE, SET_PIXEL, DIMENSIONS (40_framebuffer.md R70, R72,
R74). -/

namespace Sys2Proof.Machine

/-- What a successful CREATE writes (40_framebuffer.md R70). -/
def State.configure (s : State) (width height : BitVec 10) (address : BitVec 8) : State :=
  { s with
    w := width
    h := height
    addr := addressLow address
    fb := fbZero (width.toNat * height.toNat)
    cfg := true }

/-- CREATE width, height, address (40_framebuffer.md R70; order of the tests 60_exceptions.md R143). -/
def execCreate (width height : BitVec 10) (address : BitVec 8) (s : State) :
    Host.Outcome State Fault Refusal :=
  if s.cfg then .next (s.raise .alreadyConfigured)
  else if addressTooBig address then .next (s.raise (.invalidAddress address))
  else if dimensionIsZero width height then .next (s.raise .invalidDimensions)
  else .next ((s.configure width height address).respond 0 0)

/-- `FB[x * H + y] <- value` (40_framebuffer.md R72). -/
def State.putPixel (s : State) (x y : BitVec 12) (value : Bool) : State :=
  { s with fb := fbWrite s.fb (s.surface.pixelIndex x.toNat y.toNat) value }

/-- SET_PIXEL x, y, value (40_framebuffer.md R72, R73): an out-of-range pixel is clipped silently. -/
def execSetPixel (x y : BitVec 12) (value : Bool) (s : State) : Host.Outcome State Fault Refusal :=
  if s.cfg then
    if s.surface.clips x y then .next (s.respond 0 0)
    else .next ((s.putPixel x y value).respond 0 0)
  else .next (s.raise .notConfigured)

/-- DIMENSIONS (40_framebuffer.md R74). -/
def execDimensions (s : State) : Host.Outcome State Fault Refusal :=
  if s.cfg then .next (s.respond 0 (dimensionsValue s.w s.h))
  else .next (s.raise .notConfigured)

end Sys2Proof.Machine
end

