-- ==== Sys2Proof/Machine/Dispatch.lean ====
section
/-! DEFINITION. The meaning of each command, one arm per constructor. -/

namespace Sys2Proof.Machine

def exec (i : Instr) (s : State) : Host.Outcome State Fault Refusal :=
  match i with
  | .create width height address => Sys2Proof.Machine.execCreate width height address s
  | .setPixel x y value => Sys2Proof.Machine.execSetPixel x y value s
  | .dimensions => Sys2Proof.Machine.execDimensions s
  | .frameSize => Sys2Proof.Machine.execFrameSize s
  | .encodeInto cap => Sys2Proof.Machine.execEncodeInto cap s
  | .encodeToSink => Sys2Proof.Machine.execEncodeToSink s

end Sys2Proof.Machine
end

