-- ==== Sys2Proof/Machine/Sequencer.lean ====
section
/-! DEFINITION. The byte sequencer (43_frame_composer.md R120 to R128): one wire byte a step. A step of
R121 to R126 is the byte it emits (`seqByte`) and what it then writes (`seqAdvance`). -/

namespace Sys2Proof.Machine

/-- The two steps of a hex-expanded raw byte: the high digit while `NIB = 0`, then the low one. -/
def nibbleOf (nib : Bool) (r : Byte) : Byte := if nib then hexLo r else hexHi r

/-- The wire byte the step emits (43_frame_composer.md R121 to R126). IDLE takes no sequencer step. -/
def State.seqByte (s : State) : Byte :=
  match s.phase with
  | .idle => 0
  | .sof => Config.sof
  | .hdr => nibbleOf s.nib s.surface.hdr
  | .res => nibbleOf s.nib s.surface.resb
  | .pay => nibbleOf s.nib (s.surface.packedByte s.k.toNat)
  | .eof => Config.eof
  | .ck => nibbleOf s.nib (cksumByte s.sum)

/-- `SUM <- (SUM + r) mod 256` (42_checksum.md R103). -/
def State.addSum (s : State) (r : Byte) : State := { s with sum := s.sum + cksumTerm r }

/-- What the step writes once its byte is out (43_frame_composer.md R121 to R126); NIB in a condition is
its value at the start of the step (R120). -/
def State.seqAdvance (s : State) : State :=
  match s.phase with
  | .idle => s
  | .sof => { s with sum := 0, phase := .hdr, nib := false }
  | .hdr =>
      if s.nib then { s.addSum s.surface.hdr with phase := .res, nib := false }
      else { s with nib := true }
  | .res =>
      if s.nib then { s.addSum s.surface.resb with phase := .pay, k := 0, nib := false }
      else { s with nib := true }
  | .pay =>
      if s.nib then
        if s.k.toNat + 1 < s.surface.payloadBytes then
          { s.addSum (s.surface.packedByte s.k.toNat) with k := s.k + 1, nib := false }
        else { s.addSum (s.surface.packedByte s.k.toNat) with phase := .eof }
      else { s with nib := true }
  | .eof => { s with sum := s.sum + Config.eof, phase := .ck, nib := false }
  | .ck =>
      if s.nib then
        State.respond { s with phase := .idle } 0 (lengthValue s.surface.frameLength)
      else { s with nib := true }

/-- One sequencer step with the port levels `p` (43_frame_composer.md R120, R127). -/
def seqStep (p : PortInputs) (s : State) : Host.Outcome State Fault Refusal :=
  emitThen p s.seqByte State.seqAdvance s

/-! The output ports a busy block drives (00_scope.md R9). -/

/-- `snk_valid` and `snk_data`: the byte offered to SINK, while a stream encode is in progress and `rst`
is not asserted (20_memory.md R37, 70_reset_and_hazards.md R160). -/
def State.sinkOffer (s : State) (p : PortInputs) : Option Byte :=
  if !p.rst && s.stBusy && decide (s.mode = .stream) then some s.seqByte else none

/-- `ob_we`, `ob_addr[27:0]` and `ob_data`: the byte written to OB in this step, while a buffer-fill
encode is in progress and `rst` is not asserted (20_memory.md R34, 70_reset_and_hazards.md R160). -/
def State.obDrive (s : State) (p : PortInputs) : Option (BitVec 28 × Byte) :=
  if !p.rst && s.stBusy && decide (s.mode = .bufferFill) then some (s.pos.setWidth 28, s.seqByte)
  else none

end Sys2Proof.Machine
end

