-- ==== Sys2Proof/Machine/Cycle.lean ====
section
/-! DEFINITION. What ENC does in one step, given the levels on its input ports (70_reset_and_hazards.md
R160, R169; 10_state.md R18). -/

namespace Sys2Proof.Machine

/-- The acceptance of a command word (00_scope.md R9): a command is executed, and any other word raises
IllegalCommand with no other effect, whatever CFG is (30_encoding.md R62, 60_exceptions.md R143). -/
def acceptWord (cmd : CmdWord) (s : State) : Host.Outcome State Fault Refusal :=
  match decode cmd with
  | .command i => exec i s
  | .illegal _ => .next (s.raise (.illegalCommand cmd))

/-- One step of ENC. An asserted `rst` wins (70_reset_and_hazards.md R160, R161). Idle, ENC accepts the
command HOST presents, or waits with all state held (60_exceptions.md R148). Busy, the command port
accepts nothing and the sequencer takes its step (43_frame_composer.md R130). -/
def cycle (p : PortInputs) (s : State) : Host.Outcome State Fault Refusal :=
  if p.rst then .next s.applyReset
  else if s.phase = .idle then
    match p.cmd with
    | none => .next s
    | some cmd => acceptWord cmd s
  else seqStep p s

end Sys2Proof.Machine
end

