-- ==== Sys2Proof/Machine/Step.lean ====
section
/-! DEFINITION. The step of the machine: one step of ENC with what the environment does in it. -/

namespace Sys2Proof.Machine

/-- One step (70_reset_and_hazards.md R169): the environment's element for it is used up. -/
def step (s : State) : Host.Outcome State Fault Refusal := cycle s.portNow s.portAdvance

/-- The state whose next step accepts the table word `w` (its bits from `nbits` up are 0): HOST presents
it, and the block is idle and out of reset (DESIGN CHOICE, log 1, safe). -/
def State.withFetchWord (s : State) (nbits w : Nat) : State := s.presentNext (tableWord nbits w)

end Sys2Proof.Machine
end

