-- ==== Sys2Proof/Safety.lean ====
section
/-! DEFINITION. The terms claims are made in: what a step that goes on is, HOST's two premises on the
grid, the place and the running sum the sequencer has at each position (43_frame_composer.md R131,
42_checksum.md R103), the invariant of the machine, and what the environment does in a run. -/

namespace Sys2Proof.Machine

/-- The step goes on: no stop of the model. -/
def GoesOn (o : Host.Outcome State Fault Refusal) : Prop := ∃ t, o = .next t

/-- Premise `Mul8`: `NPIX mod 8 = 0` (00_scope.md R7). -/
def Surface.MulEight (S : Surface) : Prop := S.npix % 8 = 0

/-- Premise `ResFits`: `NPIX div 8 <= 255` (00_scope.md R7). -/
def Surface.ResFits (S : Surface) : Prop := S.npix / 8 ≤ 255

/-- POS as a function of (PHASE, NIB, K) (43_frame_composer.md R131). IDLE is not in the table. -/
def expectedPos (S : Surface) (phase : Phase) (nib : Bool) (k : Nat) : Nat :=
  match phase with
  | .idle => 0
  | .sof => 0
  | .hdr => 1 + nib.toNat
  | .res => 3 + nib.toNat
  | .pay => 5 + 2 * k + nib.toNat
  | .eof => 5 + 2 * S.payloadBytes
  | .ck => 6 + 2 * S.payloadBytes + nib.toNat

/-- The raw bytes whose low digit is out at the start of a step (42_checksum.md R103). The end byte is
counted in P_CK. -/
def expectedSum (S : Surface) (phase : Phase) (k : Nat) : Byte :=
  match phase with
  | .idle => 0
  | .sof => 0
  | .hdr => 0
  | .res => cksumSum [S.hdr]
  | .pay => cksumSum (S.body.take (2 + k))
  | .eof => cksumSum S.body
  | .ck => S.sumBody

/-- What holds while an encode is in progress: the position and the sum are those of R131 and R103, the
buffer has room, and the bytes sent so far are the frame's (43_frame_composer.md R129, R131). The bytes
in OB, which HOST can write too, are `State.ObHoldsFrameSoFar`. -/
structure State.SeqInv (s : State) : Prop where
  /-- an encode needs an instance (R117, R118) -/
  configured : s.cfg = true
  /-- R131 -/
  position : s.pos.toNat = expectedPos s.surface s.phase s.nib s.k.toNat
  /-- `0 <= K < P` in P_PAY (10_state.md R19) -/
  payloadIndex : s.phase = .pay → s.k.toNat < s.surface.payloadBytes
  /-- R103; in P_SOF the register is not yet set -/
  runningSum : s.phase ≠ .sof → s.sum = expectedSum s.surface s.phase s.k.toNat
  /-- `L <= CAPR` (R127) -/
  room : s.mode = .bufferFill → s.surface.frameLength ≤ s.capr.toNat
  /-- SINK's last bytes are the frame's, up to POS (R129) -/
  consumed : s.mode = .stream → s.surface.frame.take s.pos.toNat <:+ s.snk

/-- The invariant of the machine, which every step keeps. -/
structure State.Inv (s : State) : Prop where
  /-- before a CREATE has succeeded W, H and ADDR have their reset values (10_state.md R11, R25) -/
  unconfigured : s.cfg = false → s.w = 0 ∧ s.h = 0 ∧ s.addr = 0
  /-- `1 <= W, H` when CFG = 1 (10_state.md R12) -/
  dimensions : s.cfg = true → s.w ≠ 0 ∧ s.h ≠ 0
  /-- FB has exactly `W * H` bits (10_state.md R14, 40_framebuffer.md R75) -/
  fbLength : s.fb.length = s.surface.npix
  /-- bit 0 of FAULTS is never set (10_state.md R15) -/
  faultsBitZero : s.faults.getLsbD 0 = false
  /-- status values 8 to 15 are never produced (30_encoding.md R61) -/
  statusRange : s.resp.status.toNat ≤ 7
  /-- a fault's value is 0 and its bit is recorded (30_encoding.md R61, 10_state.md R15) -/
  faultRecorded :
    s.resp.status ≠ 0 → s.resp.value = 0 ∧ s.faults.getLsbD s.resp.status.toNat = true
  /-- OB's canonical form -/
  obCanonical : s.ob.wf = true
  /-- while busy -/
  sequencer : s.phase ≠ .idle → s.SeqInv

/-- While a buffer-fill encode is in progress the bytes of OB below POS are the frame's
(43_frame_composer.md R129). A step keeps it when HOST keeps off the frame in that step. -/
def State.ObHoldsFrameSoFar (s : State) : Prop :=
  s.phase ≠ .idle → s.mode = .bufferFill → ∀ o < s.pos.toNat, s.ob.read o = s.surface.frame[o]?

/-- In this step's part of the plan HOST writes no offset of OB below `l`. -/
def KeepsOff (p : PortInputs) (l : Nat) : Prop := ∀ c ∈ p.obWrites, l ≤ c.1.toNat

/-- HOST's duty during an encode of `l` bytes whose acceptance is the next step: no write to the offsets
below `l` in the `n` steps that follow it (70_reset_and_hazards.md R164). -/
def State.HostKeepsOff (s : State) (l n : Nat) : Prop :=
  ∀ j, 1 ≤ j → j ≤ n → KeepsOff (s.portAt j) l

/-- What HOST's own writes of the `n` coming steps make of OB. -/
def State.hostOb (s : State) : Nat → Memory
  | 0 => s.ob
  | n + 1 => (s.hostOb n).hostWrites (s.portAt n).obWrites

/-- The environment asserts no reset during the next `n` steps. -/
def State.NoResetFor (s : State) (n : Nat) : Prop := ∀ j < n, (s.portAt j).rst = false

/-- HOST presents `cmd` at the step numbered `n` from now. -/
def State.PresentsAt (s : State) (n : Nat) (cmd : CmdWord) : Prop := (s.portAt n).cmd = some cmd

/-- How often SINK accepts in the `n` steps that follow the next one (an encode's acceptance step is
the next one, its sequencer steps follow). -/
def State.acceptsIn (s : State) : Nat → Nat
  | 0 => 0
  | n + 1 => s.acceptsIn n + (if sinkAnswer (s.portAt (n + 1)) = .accept then 1 else 0)

/-- SINK gives no error in the `n` steps that follow the next one. -/
def State.NoSinkErrorFor (s : State) (n : Nat) : Prop :=
  ∀ j, 1 ≤ j → j ≤ n → sinkAnswer (s.portAt j) ≠ .error

end Sys2Proof.Machine
end

