-- ==== Sys2Proof/Certificates/Slice0/Obligations.lean ====
section
/-! DEFINITION. The statements for the provers: what the rules of spec/ say the commands and the machine
do. A next state is written out as the state before with the changed fields listed, so everything that
is not listed (OB, SNK and FB among it) is unchanged. Statements about `exec` hold in every state; in a
run only an idle block executes a command (10_state.md R18, log 13). `responses` is the model's record of
the response transactions of 10_state.md R17 (log 5). HOST writes its buffer OB at will, at the start of
a step (00_scope.md R8, log 21): `portAdvance` has those writes in OB, and `hostOb` is OB under them. -/

open Sys2Proof Sys2Proof.Machine

/-! ## Encoding -/

/-- Decoding the word of a command gives the command back, with every operand at every value
(30_encoding.md R56 to R59, R63). -/
def Obligations.DecodeOfEncode : Prop := ∀ i : Instr, decode (encode i) = .command i

/-- Every word is the one word of exactly the command it decodes to, or it is no command's word
(30_encoding.md R63, 92 D8 "make every legal word unique"). -/
def Obligations.EveryWordIsOneCommandOrIllegal : Prop :=
  ∀ cmd : CmdWord,
    (∃ i, decode cmd = .command i ∧ encode i = cmd ∧ ∀ j, encode j = cmd → j = i) ∨
    (∃ why, decode cmd = .illegal why ∧ ∀ j, encode j ≠ cmd)

/-- A word is the command of a row exactly when `cmd & mask = match` (30_encoding.md R60). -/
def Obligations.DecodeFollowsMatchAndMask : Prop :=
  ∀ cmd : CmdWord,
    ((∃ w h a, decode cmd = .command (.create w h a)) ↔ cmd &&& 0xF0000000#32 = 0x10000000#32) ∧
    ((∃ x y v, decode cmd = .command (.setPixel x y v)) ↔
      cmd &&& 0xF0000007#32 = 0x20000000#32) ∧
    (decode cmd = .command .dimensions ↔ cmd &&& 0xFFFFFFFF#32 = 0x30000000#32) ∧
    (decode cmd = .command .frameSize ↔ cmd &&& 0xFFFFFFFF#32 = 0x40000000#32) ∧
    ((∃ c, decode cmd = .command (.encodeInto c)) ↔ cmd &&& 0xF0000000#32 = 0x50000000#32) ∧
    (decode cmd = .command .encodeToSink ↔ cmd &&& 0xFFFFFFFF#32 = 0x60000000#32)

/-- Words of the spec's decode vectors (95_test_vectors.md 2.6) decode to what it lists. -/
def Obligations.VectorWordsDecode : Prop :=
  decode 0x11801000 = .command (.create 96 16 0) ∧
  decode 0x100000C8 = .command (.create 0 0 200) ∧
  decode 0x20070078 = .command (.setPixel 7 7 true) ∧
  decode 0x2FFF0008 = .command (.setPixel 4095 0 true) ∧
  decode 0x20000004 = .illegal (.reservedBits 2) ∧
  decode 0x30000000 = .command .dimensions ∧
  decode 0x40000000 = .command .frameSize ∧
  decode 0x50000188 = .command (.encodeInto 392) ∧
  decode 0x60000000 = .command .encodeToSink ∧
  decode 0x70000000 = .illegal (.reservedOpcode 7)

/-- The line that writes a command down is well formed and assembles to the command's one word
(30_encoding.md R65). -/
def Obligations.LinesAssembleToTheirWords : Prop :=
  ∀ i : Instr, i.toLine.wellFormed = true ∧ i.toLine.expand = [i] ∧
    i.toLine.assemble = some [encode i]

/-- A word that matches no row raises IllegalCommand, whatever CFG is, and changes nothing but FAULTS and
RESP (and the model's record of responses) (30_encoding.md R62). Besides, the environment's part of the
step happens, as the model has it (log 1, log 21). -/
def Obligations.IllegalWordRaises : Prop :=
  ∀ (s : State) (cmd : CmdWord), s.phase = .idle → s.portNow.rst = false →
    s.portNow.cmd = some cmd →
    (cmd.extractLsb' 28 4 = 0x0#4 ∨ 0x7#4 ≤ cmd.extractLsb' 28 4 ∨
      (cmd.extractLsb' 28 4 = 0x2#4 ∧ cmd.extractLsb' 0 3 ≠ 0#3) ∨
      ((cmd.extractLsb' 28 4 = 0x3#4 ∨ cmd.extractLsb' 28 4 = 0x4#4 ∨
        cmd.extractLsb' 28 4 = 0x6#4) ∧ cmd.extractLsb' 0 28 ≠ 0#28)) →
    step s = .next { s.portAdvance with
      faults := s.faults ||| 0x40#8
      resp := ⟨6, 0⟩
      responses := s.responses ++ [⟨6, 0⟩] }

/-! ## The step -/

/-- When the block is idle, out of reset, and HOST presents a word that decodes to a command, the step
executes that command; besides, only the environment's plan moves on by one element and HOST's own
writes of the step stand in OB (00_scope.md R8, R9, 20_memory.md R41; that they come first is the
model's choice, log 21, as the plan is, log 1). -/
def Obligations.StepRunsTheDecodedCommand : Prop :=
  ∀ (s : State) (cmd : CmdWord) (i : Instr), s.phase = .idle → s.portNow.rst = false →
    s.portNow.cmd = some cmd → decode cmd = .command i →
    step s = exec i s.portAdvance ∧
    s.portAdvance = { s with
      inputs := s.inputs.tail
      draws := if s.inputs = [] then s.draws + 1 else s.draws
      ob := s.ob.hostWrites s.portNow.obWrites }

/-- The table word handed to `withFetchWord` is the one the next step runs, and only PHASE and the
environment's plan are touched for it (00_scope.md R9; the model's own loading of a program, log 1). -/
def Obligations.FetchWordIsRunNext : Prop :=
  ∀ (s : State) (w : Nat) (i : Instr), decodeTableWord 32 w = some i →
    step (s.withFetchWord 32 w) = exec i { s with phase := .idle }

/-- Idle with no command presented, the block waits with all state held (60_exceptions.md R148): only the
environment's part of the step happens, as the model has it (log 1, log 21). -/
def Obligations.IdleBlockWaits : Prop :=
  ∀ s : State, s.phase = .idle → s.portNow.rst = false → s.portNow.cmd = none →
    step s = .next s.portAdvance

/-- While the block is busy the command port accepts nothing: what HOST presents makes no difference to
the step (10_state.md R18, 43_frame_composer.md R130, 70_reset_and_hazards.md R163). -/
def Obligations.BusyBlockIgnoresCommands : Prop :=
  ∀ (s : State) (p : PortInputs) (rest : List PortInputs) (c : Option CmdWord),
    s.phase ≠ .idle →
    step { s with inputs := p :: rest } = step { s with inputs := { p with cmd := c } :: rest }

/-- A step at which `rst` is asserted gives the registers the values of 10_state.md R25 that the spec
states, abandons an encode without a response, writes nothing to OB and keeps what SINK consumed
(70_reset_and_hazards.md R160, R161). R160 fixes the values when `rst` is released: that they hold after
every step at which it is asserted is the model's choice (log 14), and so is the split of SNK (log 6). -/
def Obligations.ResetInputResets : Prop :=
  ∀ s : State, s.portNow.rst = true →
    ∃ t, step s = .next t ∧ t.cfg = false ∧ t.w = 0 ∧ t.h = 0 ∧ t.addr = 0 ∧ t.fb = [] ∧
      t.faults = 0 ∧ t.resp = ⟨0, 0⟩ ∧ t.phase = .idle ∧ t.snk = [] ∧
      t.snkPast = s.snkPast ++ s.snk ∧ t.responses = s.responses ∧
      ∀ o, t.ob.read o = (s.ob.hostWrites s.portNow.obWrites).read o

/-! ## CREATE -/

/-- A successful CREATE (40_framebuffer.md R70). -/
def Obligations.CreateSucceeds : Prop :=
  ∀ (s : State) (width height : BitVec 10) (address : BitVec 8),
    s.cfg = false → address.toNat < 16 → width ≠ 0 → height ≠ 0 →
    exec (.create width height address) s = .next { s with
      w := width
      h := height
      addr := address.extractLsb' 0 4
      fb := List.replicate (width.toNat * height.toNat) false
      cfg := true
      resp := ⟨0, 0⟩
      responses := s.responses ++ [⟨0, 0⟩] }

/-- CREATE's faults in their order, each with nothing else changed (40_framebuffer.md R70,
60_exceptions.md R140, R141, R143). -/
def Obligations.CreateFaultsInOrder : Prop :=
  ∀ (s : State) (width height : BitVec 10) (address : BitVec 8),
    (s.cfg = true →
      exec (.create width height address) s = .next { s with
        faults := s.faults ||| 0x20#8, phase := .idle
        resp := ⟨5, 0⟩, responses := s.responses ++ [⟨5, 0⟩] }) ∧
    (s.cfg = false → 16 ≤ address.toNat →
      exec (.create width height address) s = .next { s with
        faults := s.faults ||| 0x02#8, phase := .idle
        resp := ⟨1, 0⟩, responses := s.responses ++ [⟨1, 0⟩] }) ∧
    (s.cfg = false → address.toNat < 16 → (width = 0 ∨ height = 0) →
      exec (.create width height address) s = .next { s with
        faults := s.faults ||| 0x80#8, phase := .idle
        resp := ⟨7, 0⟩, responses := s.responses ++ [⟨7, 0⟩] })

/-- After a CREATE and before any SET_PIXEL the grid has `W * H` pixels, all off, and every packed byte is
0x00 (40_framebuffer.md R70, R79). -/
def Obligations.CreatedGridIsBlank : Prop :=
  ∀ (s : State) (width height : BitVec 10) (address : BitVec 8),
    s.cfg = false → address.toNat < 16 → width ≠ 0 → height ≠ 0 →
    ∃ t, exec (.create width height address) s = .next t ∧
      t.fb.length = width.toNat * height.toNat ∧ (∀ i, fbRead t.fb i = false) ∧
      t.surface.packed = List.replicate ((width.toNat * height.toNat + 7) / 8) 0x00#8

/-! ## SET_PIXEL -/

/-- SET_PIXEL inside the grid writes exactly its own pixel (40_framebuffer.md R72, 20_memory.md R39). -/
def Obligations.SetPixelWritesOnePixel : Prop :=
  ∀ (s : State) (x y : BitVec 12) (v : Bool), s.Inv → s.cfg = true →
    x.toNat < s.w.toNat → y.toNat < s.h.toNat →
    ∃ t, exec (.setPixel x y v) s = .next t ∧
      t = { s with fb := t.fb, resp := ⟨0, 0⟩, responses := s.responses ++ [⟨0, 0⟩] } ∧
      t.fb.length = s.fb.length ∧
      ∀ x' y', x' < s.w.toNat → y' < s.h.toNat →
        fbRead t.fb (x' * s.h.toNat + y') =
          if x' = x.toNat ∧ y' = y.toNat then v else fbRead s.fb (x' * s.h.toNat + y')

/-- SET_PIXEL outside the grid is silent: it responds OK and changes nothing else (40_framebuffer.md R72,
60_exceptions.md R144). -/
def Obligations.SetPixelOutsideIsClipped : Prop :=
  ∀ (s : State) (x y : BitVec 12) (v : Bool), s.cfg = true →
    (s.w.toNat ≤ x.toNat ∨ s.h.toNat ≤ y.toNat) →
    exec (.setPixel x y v) s = .next { s with
      resp := ⟨0, 0⟩, responses := s.responses ++ [⟨0, 0⟩] }

/-- A negative coordinate of the graphics layer reaches the block as at least 2048, and every field value
of 1024 and more is clipped, so DRAW never wraps onto the grid (40_framebuffer.md R73). -/
def Obligations.NegativeCoordinatesAreClipped : Prop :=
  (∀ c : Int, -2048 ≤ c → c < 0 → ((coordField c).toNat : Int) = 4096 + c ∧
    2048 ≤ (coordField c).toNat) ∧
  (∀ (s : State) (x y : BitVec 12) (v : Bool), s.cfg = true →
    (1024 ≤ x.toNat ∨ 1024 ≤ y.toNat) →
    exec (.setPixel x y v) s = .next { s with
      resp := ⟨0, 0⟩, responses := s.responses ++ [⟨0, 0⟩] })

/-- SET_PIXELs of different pixels commute in what they leave in FB (40_framebuffer.md R72 (e)). -/
def Obligations.SetPixelsOfDifferentPixelsCommute : Prop :=
  ∀ (s t u t' u' : State) (x y x' y' : BitVec 12) (v v' : Bool), s.Inv → (x, y) ≠ (x', y') →
    exec (.setPixel x y v) s = .next t → exec (.setPixel x' y' v') t = .next u →
    exec (.setPixel x' y' v') s = .next t' → exec (.setPixel x y v) t' = .next u' →
    u.fb = u'.fb

/-- Pixel (x, y) has the index `x * H + y`, and this maps the grid one to one onto the indices of FB
(20_memory.md R32). -/
def Obligations.PixelIndexIsABijection : Prop :=
  ∀ S : Surface,
    (∀ x y, S.pixelIndex x y = x * S.h.toNat + y) ∧
    (∀ x y, x < S.w.toNat → y < S.h.toNat → S.pixelIndex x y < S.npix) ∧
    (∀ x y x' y', x < S.w.toNat → y < S.h.toNat → x' < S.w.toNat → y' < S.h.toNat →
      S.pixelIndex x y = S.pixelIndex x' y' → x = x' ∧ y = y') ∧
    (∀ i < S.npix, ∃ x y, x < S.w.toNat ∧ y < S.h.toNat ∧ S.pixelIndex x y = i)

/-! ## The queries, and the commands without an instance -/

/-- DIMENSIONS on a configured block: `value[25:16] = W`, `value[9:0] = H`, all other bits 0
(40_framebuffer.md R74, 30_encoding.md R61). -/
def Obligations.DimensionsReturnsBoth : Prop :=
  ∀ s : State, s.cfg = true →
    ∃ v : BitVec 32, exec .dimensions s = .next { s with
        resp := ⟨0, v⟩, responses := s.responses ++ [⟨0, v⟩] } ∧
      v.extractLsb' 16 10 = s.w ∧ v.extractLsb' 0 10 = s.h ∧
      v.extractLsb' 26 6 = 0#6 ∧ v.extractLsb' 10 6 = 0#6

/-- FRAME_SIZE on a configured block answers the length of the frame an encode would emit, and changes
nothing else (43_frame_composer.md R114, R116). -/
def Obligations.FrameSizeIsTheFramesLength : Prop :=
  ∀ s : State, s.cfg = true →
    ∃ v : BitVec 32, exec .frameSize s = .next { s with
        resp := ⟨0, v⟩, responses := s.responses ++ [⟨0, v⟩] } ∧
      v.toNat = 2 * ((s.w.toNat * s.h.toNat + 7) / 8) + 8 ∧ v.toNat = s.surface.frame.length

/-- Before a CREATE has succeeded every other command raises NotConfigured and has no other effect
(60_exceptions.md R140, R141, 70_reset_and_hazards.md R162). -/
def Obligations.CommandsNeedAnInstance : Prop :=
  ∀ (s : State) (i : Instr), s.cfg = false → (∀ w h a, i ≠ .create w h a) →
    exec i s = .next { s with
      faults := s.faults ||| 0x10#8, phase := .idle
      resp := ⟨4, 0⟩, responses := s.responses ++ [⟨4, 0⟩] }

/-! ## The frame -/

/-- `Hex(b)` is the digit of the high nibble and then that of the low one, each of `0-9`, `A-F` with the
value of its nibble; different bytes give different pairs, and no character is a control byte
(41_hex_encoder.md R90 to R92). -/
def Obligations.HexPairsAreInjective : Prop :=
  (∀ b : Byte, ∃ hi lo, hex b = [hi, lo] ∧
    hi.toNat = (if b.toNat / 16 ≤ 9 then 0x30 + b.toNat / 16 else 0x41 + (b.toNat / 16 - 10)) ∧
    lo.toNat = (if b.toNat % 16 ≤ 9 then 0x30 + b.toNat % 16 else 0x41 + (b.toNat % 16 - 10)) ∧
    ∀ c, c = hi ∨ c = lo → ((0x30#8 ≤ c ∧ c ≤ 0x39#8) ∨ (0x41#8 ≤ c ∧ c ≤ 0x46#8)) ∧
      c ≠ 0x02#8 ∧ c ≠ 0x03#8) ∧
  (∀ b b' : Byte, hex b = hex b' → b = b')

/-- The bits of a packed byte: the pixel of index `8k + j` is bit `j`, and bits past the last pixel are 0
(40_framebuffer.md R77, R78). -/
def Obligations.PackedByteHoldsEightPixels : Prop :=
  ∀ (S : Surface) (k j : Nat), j < 8 →
    (S.packedByte k).getLsbD j = if 8 * k + j < S.npix then fbRead S.fb (8 * k + j) else false

/-- The header byte is the address plus 17, between 17 and 32 (43_frame_composer.md R110). -/
def Obligations.HeaderIsAddressPlus17 : Prop :=
  ∀ S : Surface, S.hdr.toNat = S.addr.toNat + 17 ∧ 17 ≤ S.hdr.toNat ∧ S.hdr.toNat ≤ 32

/-- The resolution byte is the truncated quotient, its low 8 bits (43_frame_composer.md R111); it counts
the payload bytes when both of HOST's premises hold, and one less when only `ResFits` does (R112). -/
def Obligations.ResolutionByteTruncates : Prop :=
  ∀ S : Surface,
    S.resb.toNat = S.w.toNat * S.h.toNat / 8 % 256 ∧
    (S.ResFits → S.resb.toNat = S.w.toNat * S.h.toNat / 8) ∧
    (S.ResFits → S.MulEight → S.packed.length = S.resb.toNat) ∧
    (S.ResFits → ¬S.MulEight → S.packed.length = S.resb.toNat + 1)

/-- The checksum is the negation of the sum: `CK = (256 - SumBody) mod 256`, and the raw header, resolution,
payload, 0x03 and CK add up to 0 modulo 256 (42_checksum.md R100 to R102). -/
def Obligations.ChecksumNegatesTheSum : Prop :=
  ∀ S : Surface,
    S.checksum.toNat = (256 - S.sumBody.toNat) % 256 ∧
    (S.hdr.toNat + S.resb.toNat + (S.packed.map BitVec.toNat).sum + 3 + S.checksum.toNat) % 256 = 0

/-- `len(Frame(S)) = FrameSize(W, H) = 2 * (3 + P) + 2 = 2 * P + 8` (43_frame_composer.md R114). -/
def Obligations.FrameHasItsSize : Prop :=
  ∀ S : Surface,
    S.frame.length = 2 * (3 + (S.w.toNat * S.h.toNat + 7) / 8) + 2 ∧
    S.frame.length = frameSize S.w.toNat S.h.toNat ∧
    S.frame.length = 2 * S.payloadBytes + 8

/-- The known offsets of the frame (43_frame_composer.md R115). -/
def Obligations.FrameHasItsOffsets : Prop :=
  ∀ S : Surface,
    S.frame[0]? = some 0x02#8 ∧
    S.frame[1]? = some (hexHi S.hdr) ∧ S.frame[2]? = some (hexLo S.hdr) ∧
    S.frame[3]? = some (hexHi S.resb) ∧ S.frame[4]? = some (hexLo S.resb) ∧
    (∀ k < S.payloadBytes, S.frame[5 + 2 * k]? = some (hexHi (S.packedByte k)) ∧
      S.frame[6 + 2 * k]? = some (hexLo (S.packedByte k))) ∧
    S.frame[5 + 2 * S.payloadBytes]? = some 0x03#8 ∧
    S.frame[6 + 2 * S.payloadBytes]? = some (hexHi S.checksum) ∧
    S.frame[7 + 2 * S.payloadBytes]? = some (hexLo S.checksum) ∧
    7 + 2 * S.payloadBytes = S.frame.length - 1

/-- The control bytes stand at their two offsets only, and every other wire byte is a hex digit
(30_encoding.md R52). -/
def Obligations.ControlBytesOnlyAtTheirOffsets : Prop :=
  ∀ (S : Surface) (o : Nat) (b : Byte), S.frame[o]? = some b →
    (b = 0x02#8 ↔ o = 0) ∧ (b = 0x03#8 ↔ o = 5 + 2 * S.payloadBytes) ∧
    (o ≠ 0 → o ≠ 5 + 2 * S.payloadBytes → ∃ n : BitVec 4, b = digit n)

/-! ## The encodes -/

/-- Acceptance of ENCODE_INTO: the buffer is large enough, nothing is written to OB yet, and the sequencer
starts (43_frame_composer.md R117, R120). -/
def Obligations.EncodeIntoIsAccepted : Prop :=
  ∀ (s : State) (cap : BitVec 28), s.cfg = true →
    2 * ((s.w.toNat * s.h.toNat + 7) / 8) + 8 ≤ cap.toNat →
    exec (.encodeInto cap) s = .next { s with
      mode := .bufferFill, capr := cap, pos := 0, phase := .sof }

/-- ENCODE_INTO with a buffer that is too small raises BufferTooSmall before any write
(43_frame_composer.md R117, 60_exceptions.md R140, R141). -/
def Obligations.SmallBufferIsRefused : Prop :=
  ∀ (s : State) (cap : BitVec 28), s.cfg = true →
    cap.toNat < 2 * ((s.w.toNat * s.h.toNat + 7) / 8) + 8 →
    exec (.encodeInto cap) s = .next { s with
      faults := s.faults ||| 0x04#8, phase := .idle
      resp := ⟨2, 0⟩, responses := s.responses ++ [⟨2, 0⟩] }

/-- Acceptance of ENCODE_TO_SINK: the sequencer starts (43_frame_composer.md R118, R120). -/
def Obligations.EncodeToSinkIsAccepted : Prop :=
  ∀ s : State, s.cfg = true →
    exec .encodeToSink s = .next { s with mode := .stream, pos := 0, phase := .sof }

/-- At the start of every sequencer step POS is the function of (PHASE, NIB, K) that the spec tabulates,
and the byte the step emits is `Frame(S)[POS]` (43_frame_composer.md R131, R115). -/
def Obligations.SequencerEmitsFrameAtPos : Prop :=
  ∀ s : State, s.Inv → s.phase ≠ .idle →
    s.pos.toNat = expectedPos s.surface s.phase s.nib s.k.toNat ∧
    s.pos.toNat < s.surface.frame.length ∧ s.surface.frame[s.pos.toNat]? = some s.seqByte

/-- One buffer-fill step never waits and never fails: it writes the byte of the frame at offset POS and no
other offset, which read as HOST's own writes of the step leave them, and moves on by one
(43_frame_composer.md R127, 20_memory.md R35; HOST's writes come first in a step, log 21). -/
def Obligations.BufferStepWritesOneByte : Prop :=
  ∀ s : State, s.Inv → s.phase ≠ .idle → s.mode = .bufferFill → s.portNow.rst = false →
    ∃ t, step s = .next t ∧ t.pos = s.pos + 1 ∧
      t.ob.read s.pos.toNat = s.surface.frame[s.pos.toNat]? ∧
      (∀ o, o ≠ s.pos.toNat → t.ob.read o = (s.ob.hostWrites s.portNow.obWrites).read o) ∧
      t.snk = s.snk ∧ t.surface = s.surface ∧ t.cfg = s.cfg ∧ t.faults = s.faults

/-- One stream step, by SINK's answer: on accept the byte of the frame at POS is appended, on error the
command aborts with SinkWriteFailure and the byte is not appended, and otherwise nothing happens
(20_memory.md R37, 43_frame_composer.md R127, R128; both wires at once are an error, 00_scope.md R9).
Whatever the answer, ENC writes nothing to OB: it reads as HOST's own writes of the step leave it
(log 21). -/
def Obligations.StreamStepFollowsTheSink : Prop :=
  ∀ s : State, s.Inv → s.phase ≠ .idle → s.mode = .stream → s.portNow.rst = false →
    (s.portNow.snkErr = false → s.portNow.snkReady = true →
      ∃ t b, step s = .next t ∧ s.surface.frame[s.pos.toNat]? = some b ∧ t.snk = s.snk ++ [b] ∧
        t.pos = s.pos + 1 ∧ t.ob = s.portAdvance.ob ∧ t.surface = s.surface ∧ t.cfg = s.cfg ∧
        t.faults = s.faults) ∧
    (s.portNow.snkErr = true →
      step s = .next { s.portAdvance with
        faults := s.faults ||| 0x08#8, phase := .idle
        resp := ⟨3, 0⟩, responses := s.responses ++ [⟨3, 0⟩] }) ∧
    (s.portNow.snkErr = false → s.portNow.snkReady = false → step s = .next s.portAdvance)

/-- ENCODE_INTO from its acceptance: with no reset, it ends after its acceptance step and L byte steps
with the response `(0, L)`, whatever HOST writes to OB; ENC writes no offset from L up; and
`OB[0..L)` is the frame when HOST keeps off it meanwhile (43_frame_composer.md R117, R127, R129;
20_memory.md R35; 70_reset_and_hazards.md R164). -/
def Obligations.EncodeIntoWritesTheFrame : Prop :=
  ∀ (s : State) (cap : BitVec 28), s.Inv → s.phase = .idle → s.cfg = true →
    s.surface.frame.length ≤ cap.toNat → s.PresentsAt 0 (encode (.encodeInto cap)) →
    s.NoResetFor (s.surface.frame.length + 1) →
    ∃ t : State, core.run (s.surface.frame.length + 1) s = .next t ∧
      (s.HostKeepsOff s.surface.frame.length s.surface.frame.length →
        ∀ o < s.surface.frame.length, t.ob.read o = s.surface.frame[o]?) ∧
      (∀ o, s.surface.frame.length ≤ o →
        t.ob.read o = (s.hostOb (s.surface.frame.length + 1)).read o) ∧
      t.phase = .idle ∧ t.pos.toNat = s.surface.frame.length ∧ t.sum = s.surface.sumBody ∧
      t.resp = ⟨0, BitVec.ofNat 32 s.surface.frame.length⟩ ∧
      t.responses = s.responses ++ [⟨0, BitVec.ofNat 32 s.surface.frame.length⟩] ∧
      t.surface = s.surface ∧ t.cfg = s.cfg ∧ t.faults = s.faults ∧
      t.snk = s.snk ∧ t.snkPast = s.snkPast

/-- ENCODE_TO_SINK from its acceptance: whatever SINK's waits are, once it has accepted L bytes without an
error, SNK has gained exactly the frame and the response is `(0, L)` (43_frame_composer.md R118 (a),
R129). ENC writes nothing to OB: it is what HOST's own writes leave (log 21). -/
def Obligations.EncodeToSinkSendsTheFrame : Prop :=
  ∀ (s : State) (n : Nat), s.Inv → s.phase = .idle → s.cfg = true →
    s.PresentsAt 0 (encode .encodeToSink) → s.NoResetFor (n + 1) → s.NoSinkErrorFor n →
    s.acceptsIn n = s.surface.frame.length → sinkAnswer (s.portAt n) = .accept →
    ∃ t : State, core.run (n + 1) s = .next t ∧ t.snk = s.snk ++ s.surface.frame ∧ t.phase = .idle ∧
      t.pos.toNat = s.surface.frame.length ∧ t.sum = s.surface.sumBody ∧
      t.resp = ⟨0, BitVec.ofNat 32 s.surface.frame.length⟩ ∧
      t.responses = s.responses ++ [⟨0, BitVec.ofNat 32 s.surface.frame.length⟩] ∧
      t.surface = s.surface ∧ t.cfg = s.cfg ∧ t.faults = s.faults ∧
      t.snkPast = s.snkPast ∧ t.ob = s.hostOb (n + 1)

/-- ENCODE_TO_SINK cut by a sink error: SNK has gained the prefix SINK had accepted and nothing more, POS
is its length, the command ends with SinkWriteFailure, and FB and the configuration are unchanged
(43_frame_composer.md R118 (b), R128). ENC writes nothing to OB: it is what HOST's own writes leave
(log 21). -/
def Obligations.SinkErrorLeavesAPrefix : Prop :=
  ∀ (s : State) (n : Nat), s.Inv → s.phase = .idle → s.cfg = true →
    s.PresentsAt 0 (encode .encodeToSink) → s.NoResetFor (n + 2) → s.NoSinkErrorFor n →
    s.acceptsIn n < s.surface.frame.length → sinkAnswer (s.portAt (n + 1)) = .error →
    ∃ t : State, core.run (n + 2) s = .next t ∧
      t.snk = s.snk ++ s.surface.frame.take (s.acceptsIn n) ∧ t.phase = .idle ∧
      t.pos.toNat = s.acceptsIn n ∧ t.resp = ⟨3, 0⟩ ∧ t.responses = s.responses ++ [⟨3, 0⟩] ∧
      t.faults = s.faults ||| 0x08#8 ∧ t.surface = s.surface ∧ t.cfg = s.cfg ∧
      t.snkPast = s.snkPast ∧ t.ob = s.hostOb (n + 2)

/-- While SINK has accepted fewer than L bytes and given no error, the block stays busy, has sent exactly
the accepted prefix, and has delivered no response and set no fault: a sink that stalls for ever keeps
it so for ever (43_frame_composer.md R118 (c), 70_reset_and_hazards.md R168). ENC writes nothing to
OB: it is what HOST's own writes leave (log 21). -/
def Obligations.UnfinishedStreamStaysBusy : Prop :=
  ∀ (s : State) (n : Nat), s.Inv → s.phase = .idle → s.cfg = true →
    s.PresentsAt 0 (encode .encodeToSink) → s.NoResetFor (n + 1) → s.NoSinkErrorFor n →
    s.acceptsIn n < s.surface.frame.length →
    ∃ t : State, core.run (n + 1) s = .next t ∧ t.phase ≠ .idle ∧
      t.snk = s.snk ++ s.surface.frame.take (s.acceptsIn n) ∧ t.pos.toNat = s.acceptsIn n ∧
      t.resp = s.resp ∧ t.responses = s.responses ∧ t.faults = s.faults ∧
      t.surface = s.surface ∧ t.cfg = s.cfg ∧ t.ob = s.hostOb (n + 1)

/-- The two modes agree: of an ENCODE_INTO followed by an ENCODE_TO_SINK, with nothing in between, the
first leaves in `OB[0..L)` the very bytes that the second appends to SNK, when HOST keeps off them during
the first; and they still stand there at the end when HOST keeps off them until then
(43_frame_composer.md R119 (b), 70_reset_and_hazards.md R164). -/
def Obligations.BufferAndStreamAgree : Prop :=
  ∀ (s : State) (cap : BitVec 28), s.Inv → s.phase = .idle → s.cfg = true →
    s.surface.frame.length ≤ cap.toNat → s.PresentsAt 0 (encode (.encodeInto cap)) →
    s.PresentsAt (s.surface.frame.length + 1) (encode .encodeToSink) →
    s.NoResetFor (2 * s.surface.frame.length + 2) →
    (∀ j, s.surface.frame.length + 2 ≤ j → j < 2 * s.surface.frame.length + 2 →
      sinkAnswer (s.portAt j) = .accept) →
    ∃ t u : State, core.run (s.surface.frame.length + 1) s = .next t ∧
      core.run (2 * s.surface.frame.length + 2) s = .next u ∧ t.phase = .idle ∧ u.phase = .idle ∧
      u.snk.length = s.snk.length + s.surface.frame.length ∧
      ∀ o < s.surface.frame.length, ∃ b, u.snk[s.snk.length + o]? = some b ∧
        (s.HostKeepsOff s.surface.frame.length s.surface.frame.length → t.ob.read o = some b) ∧
        (s.HostKeepsOff s.surface.frame.length (2 * s.surface.frame.length + 1) →
          u.ob.read o = some b)

/-- Encoding twice with nothing in between sends the same frame twice (43_frame_composer.md R119 (c)). -/
def Obligations.EncodingTwiceSendsTheSameFrame : Prop :=
  ∀ s : State, s.Inv → s.phase = .idle → s.cfg = true →
    s.PresentsAt 0 (encode .encodeToSink) →
    s.PresentsAt (s.surface.frame.length + 1) (encode .encodeToSink) →
    s.NoResetFor (2 * s.surface.frame.length + 2) →
    (∀ j, 1 ≤ j → j < 2 * s.surface.frame.length + 2 → j ≠ s.surface.frame.length + 1 →
      sinkAnswer (s.portAt j) = .accept) →
    ∃ t : State, core.run (2 * s.surface.frame.length + 2) s = .next t ∧ t.phase = .idle ∧
      t.snk = s.snk ++ s.surface.frame ++ s.surface.frame

/-- The status wires show CFG, busy and FAULTS, in every state. The other output ports: idle, the block
is ready and drives neither byte port; busy, it is not ready and drives the frame's byte at POS on the
port of its mode, and not the other; in reset it does neither (00_scope.md R9, 10_state.md R16,
70_reset_and_hazards.md R160). -/
def Obligations.OutputPortsCarryTheFrame : Prop :=
  (∀ s : State, s.stCfg = s.cfg ∧ (s.stBusy = true ↔ s.phase ≠ .idle) ∧ s.stFaults = s.faults) ∧
  ∀ (s : State) (p : PortInputs), s.Inv →
    (p.rst = true → s.cmdReady p = false ∧ s.sinkOffer p = none ∧ s.obDrive p = none) ∧
    (p.rst = false → s.phase = .idle →
      s.cmdReady p = true ∧ s.sinkOffer p = none ∧ s.obDrive p = none) ∧
    (p.rst = false → s.phase ≠ .idle → s.cmdReady p = false ∧
      (s.mode = .stream → s.obDrive p = none ∧ s.sinkOffer p = s.surface.frame[s.pos.toNat]? ∧
        s.sinkOffer p ≠ none) ∧
      (s.mode = .bufferFill → s.sinkOffer p = none ∧ ∃ a b, s.obDrive p = some (a, b) ∧
        a.toNat = s.pos.toNat ∧ s.surface.frame[s.pos.toNat]? = some b))

/-! ## The whole machine -/

/-- The invariant holds at reset (10_state.md R25). -/
def Obligations.ResetMeetsTheInvariant : Prop := State.reset.Inv ∧ State.reset.ObHoldsFrameSoFar

/-- Every step keeps the invariant: the configuration is legal, FB has `W * H` bits, the status and FAULTS
agree, OB is canonical, and while an encode is in progress the position, the running sum and the bytes
sent so far are the frame's (10_state.md R12, R14, R15; 43_frame_composer.md R129, R131). A step in which
HOST keeps off the frame also keeps that OB holds the frame so far (R129, 70_reset_and_hazards.md R164). -/
def Obligations.StepKeepsTheInvariant : Prop :=
  ∀ s t : State, s.Inv → step s = .next t →
    t.Inv ∧ (s.ObHoldsFrameSoFar → KeepsOff s.portNow s.surface.frame.length → t.ObHoldsFrameSoFar)

/-- From a state that meets the invariant the machine never stops: the model's one stop is not reached
(43_frame_composer.md R127 "always possible: POS < L <= CAPR", log 7). -/
def Obligations.InvariantStatesGoOn : Prop := ∀ s : State, s.Inv → GoesOn (step s)

/-- From a successful CREATE until reset CFG, W, H, ADDR and the length of FB do not change; before it
only an accepted CREATE writes W, H or ADDR (40_framebuffer.md R71, 10_state.md R11). -/
def Obligations.ConfigurationIsFixedUntilReset : Prop :=
  ∀ s t : State, step s = .next t → s.portNow.rst = false →
    (s.cfg = true →
      t.cfg = true ∧ t.w = s.w ∧ t.h = s.h ∧ t.addr = s.addr ∧ t.fb.length = s.fb.length) ∧
    ((t.cfg, t.w, t.h, t.addr) ≠ (s.cfg, s.w, s.h, s.addr) →
      s.cfg = false ∧ ∃ cmd w h a, s.portNow.cmd = some cmd ∧
        decode cmd = .command (.create w h a) ∧ t.cfg = true ∧ t.w = w ∧ t.h = h ∧
        t.addr = a.extractLsb' 0 4)

/-- Only an accepted CREATE or SET_PIXEL changes FB: no other command, no fault, no wait and no sequencer
step does (40_framebuffer.md R75 (c), 43_frame_composer.md R119 (d)). -/
def Obligations.OnlyCreateAndSetPixelChangeFb : Prop :=
  ∀ s t : State, step s = .next t → s.portNow.rst = false → t.fb ≠ s.fb →
    s.phase = .idle ∧ t.resp = ⟨0, 0⟩ ∧ ∃ cmd, s.portNow.cmd = some cmd ∧
      ((s.cfg = false ∧ ∃ w h a, decode cmd = .command (.create w h a)) ∨
       (s.cfg = true ∧ ∃ x y v, decode cmd = .command (.setPixel x y v) ∧
        x.toNat < s.w.toNat ∧ y.toNat < s.h.toNat))

/-- FAULTS is sticky: no step but a reset clears a bit, and a bit that a step sets is the one of the fault
its response reports (10_state.md R15, 60_exceptions.md R141). -/
def Obligations.FaultBitsAreSticky : Prop :=
  ∀ s t : State, step s = .next t → s.portNow.rst = false →
    (∀ c, s.faults.getLsbD c = true → t.faults.getLsbD c = true) ∧
    (∀ c, t.faults.getLsbD c = true → s.faults.getLsbD c = false →
      c = t.resp.status.toNat ∧ 1 ≤ c ∧ c ≤ 7 ∧ t.resp.value = 0)

/-- FAULTS is read by no step: with another value in it the step does the same but for FAULTS
(10_state.md R15). -/
def Obligations.NoStepReadsFaults : Prop :=
  ∀ (s t : State) (f : BitVec 8), step s = .next t →
    ∃ g, step { s with faults := f } = .next { t with faults := g }

/-- OB is never read: with other contents in it the step does the same but for OB (20_memory.md R34). -/
def Obligations.NoStepReadsOb : Prop :=
  ∀ (s t : State) (m : Memory), step s = .next t →
    ∃ m', step { s with ob := m } = .next { t with ob := m' }

/-- HOST's own writes: an offset reads the last byte that HOST wrote to it, and as before where HOST wrote
nothing (00_scope.md R8, 20_memory.md R34). -/
def Obligations.HostWritesLandAtTheirOffsets : Prop :=
  ∀ (m : Memory) (ws : List (BitVec 28 × Byte)) (a : BitVec 28),
    ((∀ c ∈ ws, c.1 ≠ a) → (m.hostWrites ws).read a.toNat = m.read a.toNat) ∧
    (∀ pre b post, ws = pre ++ (a, b) :: post → (∀ c ∈ post, c.1 ≠ a) →
      (m.hostWrites ws).read a.toNat = some b)

/-- HOST's own writes to OB change nothing but OB: a HOST that writes where it should not harms only its
own data (70_reset_and_hazards.md R164, 20_memory.md R34). -/
def Obligations.HostWritesChangeOnlyOb : Prop :=
  ∀ (s t : State) (p : PortInputs) (rest : List PortInputs) (ws : List (BitVec 28 × Byte)),
    step { s with inputs := p :: rest } = .next t →
    ∃ m, step { s with inputs := { p with obWrites := ws } :: rest } = .next { t with ob := m }

/-- One response per accepted command: out of reset, a step that accepts a word or continues an encode
either ends the command, with exactly one response, which is RESP, and the block idle, or leaves it in
progress with none; a step that does neither responds to nobody (10_state.md R17, R18). -/
def Obligations.OneResponsePerCommand : Prop :=
  ∀ s t : State, step s = .next t → s.portNow.rst = false →
    ((s.phase ≠ .idle ∨ s.portNow.cmd ≠ none) →
      (t.phase = .idle ∧ t.responses = s.responses ++ [t.resp]) ∨
      (t.phase ≠ .idle ∧ t.responses = s.responses ∧ t.resp = s.resp)) ∧
    (s.phase = .idle → s.portNow.cmd = none → t.responses = s.responses ∧ t.resp = s.resp)
end

