-- ==== Sys2Proof/Laws/Decode.lean ====
section
/-! SUPPORT. The words of the commands and their fields as numbers, and what decoding can answer, said
once. -/

namespace Sys2Proof

/-- `{a, b}` as a number. -/
theorem append_toNat {n m : Nat} (a : BitVec n) (b : BitVec m) :
    (a ++ b).toNat = a.toNat * 2 ^ m + b.toNat := by
  rw [BitVec.toNat_append, ← Nat.shiftLeft_add_eq_or_of_lt b.isLt, Nat.shiftLeft_eq]

/-- `v[hi:lo]` as a number. -/
theorem field_toNat {n : Nat} (v : BitVec n) (lo len : Nat) :
    (v.extractLsb' lo len).toNat = v.toNat / 2 ^ lo % 2 ^ len := by
  rw [BitVec.extractLsb'_toNat, Nat.shiftRight_eq_div_pow]

theorem encode_create_toNat (width height : BitVec 10) (address : BitVec 8) :
    (encode (.create width height address)).toNat =
      1 * 2 ^ 28 + width.toNat * 2 ^ 18 + height.toNat * 2 ^ 8 + address.toNat := by
  simp only [encode, append_toNat]
  simp; omega

theorem encode_setPixel_toNat (x y : BitVec 12) (value : Bool) :
    (encode (.setPixel x y value)).toNat =
      2 * 2 ^ 28 + x.toNat * 2 ^ 16 + y.toNat * 2 ^ 4 + value.toNat * 2 ^ 3 := by
  simp only [encode, append_toNat, BitVec.toNat_ofBool]
  simp; omega

theorem encode_encodeInto_toNat (cap : BitVec 28) :
    (encode (.encodeInto cap)).toNat = 5 * 2 ^ 28 + cap.toNat := by
  simp only [encode, append_toNat]
  simp

/-- The word of a command carries its opcode in bits 31:28 (30_encoding.md R55). -/
theorem opField_encode (i : Instr) :
    opField (encode i) =
      match i with
      | .create _ _ _ => 1
      | .setPixel _ _ _ => 2
      | .dimensions => 3
      | .frameSize => 4
      | .encodeInto _ => 5
      | .encodeToSink => 6 := by
  cases i with
  | create w h a =>
    apply BitVec.eq_of_toNat_eq
    simp only [opField, field_toNat, encode_create_toNat]
    have := w.isLt; have := h.isLt; have := a.isLt
    simp; omega
  | setPixel x y v =>
    apply BitVec.eq_of_toNat_eq
    simp only [opField, field_toNat, encode_setPixel_toNat]
    have := x.isLt; have := y.isLt; have := v.toNat_lt
    simp; omega
  | dimensions => rfl
  | frameSize => rfl
  | encodeInto c =>
    apply BitVec.eq_of_toNat_eq
    simp only [opField, field_toNat, encode_encodeInto_toNat]
    have := c.isLt
    simp; omega
  | encodeToSink => rfl

/-- What a word that decodes to a command must be (30_encoding.md R63). -/
theorem decode_command_cases {cmd : CmdWord} {i : Instr} (h : decode cmd = .command i) :
    (opField cmd = 1 ∧
      i = .create (cmd.extractLsb' 18 10) (cmd.extractLsb' 8 10) (cmd.extractLsb' 0 8)) ∨
    (opField cmd = 2 ∧ cmd.extractLsb' 0 3 = 0 ∧
      i = .setPixel (cmd.extractLsb' 16 12) (cmd.extractLsb' 4 12) (cmd.getLsbD 3)) ∨
    (opField cmd = 3 ∧ cmd.extractLsb' 0 28 = 0 ∧ i = .dimensions) ∨
    (opField cmd = 4 ∧ cmd.extractLsb' 0 28 = 0 ∧ i = .frameSize) ∨
    (opField cmd = 5 ∧ i = .encodeInto (cmd.extractLsb' 0 28)) ∨
    (opField cmd = 6 ∧ cmd.extractLsb' 0 28 = 0 ∧ i = .encodeToSink) := by
  dsimp only [decode] at h
  repeat' split at h
  all_goals try cases h
  all_goals simp_all

/-- What an illegal word must be (30_encoding.md R62). -/
theorem decode_illegal_cases {cmd : CmdWord} {why : Illegal} (h : decode cmd = .illegal why) :
    (opField cmd = 2 ∧ cmd.extractLsb' 0 3 ≠ 0) ∨
    ((opField cmd = 3 ∨ opField cmd = 4 ∨ opField cmd = 6) ∧ cmd.extractLsb' 0 28 ≠ 0) ∨
    (opField cmd ≠ 1 ∧ opField cmd ≠ 2 ∧ opField cmd ≠ 3 ∧ opField cmd ≠ 4 ∧ opField cmd ≠ 5 ∧
      opField cmd ≠ 6) := by
  dsimp only [decode] at h
  repeat' split at h
  all_goals try cases h
  all_goals simp_all

end Sys2Proof
end

