-- ==== Sys2Proof/Laws/Frame.lean ====
section
/-! SUPPORT. The ingredients of the frame: lengths and elements of the hex-expanded body, the packed bits,
and the running form of the checksum (42_checksum.md R103). -/

namespace Sys2Proof.Machine

@[simp] theorem cksumTerm_raw (r : Byte) : cksumTerm r = r := rfl

theorem cksumSum_append (l m : List Byte) : cksumSum (l ++ m) = cksumSum l + cksumSum m := by
  induction l with
  | nil => simp [cksumSum]
  | cons r l ih => simp [cksumSum, ih, BitVec.add_assoc]

/-- One more raw byte in the running sum. -/
theorem cksumSum_take_succ (l : List Byte) {n : Nat} (h : n < l.length) :
    cksumSum (l.take (n + 1)) = cksumSum (l.take n) + l[n] := by
  rw [List.take_succ_eq_append_getElem h, cksumSum_append]
  simp [cksumSum]

@[simp] theorem hex_length (b : Byte) : (hex b).length = 2 := rfl

@[simp] theorem flatMap_hex_length (l : List Byte) : (l.flatMap hex).length = 2 * l.length := by
  induction l with
  | nil => rfl
  | cons r l ih => simp [ih]; omega

/-- The high digit of the `i`-th raw byte. -/
theorem flatMap_hex_hi (l : List Byte) (i : Nat) : (l.flatMap hex)[2 * i]? = l[i]?.map hexHi := by
  induction l generalizing i with
  | nil => simp
  | cons r l ih =>
    cases i with
    | zero => simp [hex]
    | succ i => simpa [hex, Nat.mul_succ] using ih i

/-- The low digit of the `i`-th raw byte. -/
theorem flatMap_hex_lo (l : List Byte) (i : Nat) :
    (l.flatMap hex)[2 * i + 1]? = l[i]?.map hexLo := by
  induction l generalizing i with
  | nil => simp
  | cons r l ih =>
    cases i with
    | zero => simp [hex]
    | succ i => simpa [hex, Nat.mul_succ] using ih i

@[simp] theorem Surface.packed_length (S : Surface) : S.packed.length = S.payloadBytes := by
  simp [Surface.packed]

@[simp] theorem Surface.body_length (S : Surface) : S.body.length = S.payloadBytes + 2 := by
  simp [Surface.body]

@[simp] theorem Surface.body_zero (S : Surface) : S.body[0]? = some S.hdr := rfl

@[simp] theorem Surface.body_one (S : Surface) : S.body[1]? = some S.resb := rfl

theorem Surface.body_payload (S : Surface) {k : Nat} (h : k < S.payloadBytes) :
    S.body[k + 2]? = some (S.packedByte k) := by
  simp [Surface.body, Surface.packed, h]

theorem Surface.payloadBytes_pos {S : Surface} (hw : S.w ≠ 0) (hh : S.h ≠ 0) :
    0 < S.payloadBytes := by
  have hw' : 0 < S.w.toNat := by
    rcases Nat.eq_zero_or_pos S.w.toNat with h | h
    · exact absurd (BitVec.eq_of_toNat_eq (by simpa using h)) hw
    · exact h
  have hh' : 0 < S.h.toNat := by
    rcases Nat.eq_zero_or_pos S.h.toNat with h | h
    · exact absurd (BitVec.eq_of_toNat_eq (by simpa using h)) hh
    · exact h
  have : 0 < S.npix := Nat.mul_pos hw' hh'
  unfold Surface.payloadBytes ceilDiv Config.pixPerByte
  omega

/-- `NPIX <= 1 046 529` (00_scope.md R6). -/
theorem Surface.npix_le (S : Surface) : S.npix ≤ Config.fbCapacity := by
  have hw := S.w.isLt
  have hh := S.h.isLt
  exact Nat.mul_le_mul (by omega) (by omega)

/-- Every legal CREATE fits the backing storage (00_scope.md R6, 92 D20). -/
theorem legal_create_fits (width height : BitVec 10) :
    width.toNat * height.toNat ≤ Config.fbCapacity :=
  Surface.npix_le ⟨width, height, 0, []⟩

/-- `P <= 130 817` (00_scope.md R6). -/
theorem Surface.payloadBytes_le (S : Surface) : S.payloadBytes ≤ 130817 := by
  have := S.npix_le
  unfold Config.fbCapacity at this
  unfold Surface.payloadBytes ceilDiv Config.pixPerByte
  omega

theorem Surface.frameLength_eq (S : Surface) : S.frameLength = 2 * S.payloadBytes + 8 := rfl

/-- `L <= 261 642`, which fits POS and the response value (00_scope.md R6). -/
theorem Surface.frameLength_le (S : Surface) : S.frameLength ≤ 261642 := by
  have := S.payloadBytes_le
  rw [Surface.frameLength_eq]; omega

/-- An in-range pixel's index is in range (40_framebuffer.md R75 (b)). -/
theorem Surface.pixelIndex_lt (S : Surface) {x y : Nat} (hx : x < S.w.toNat) (hy : y < S.h.toNat) :
    S.pixelIndex x y < S.npix := by
  unfold Surface.pixelIndex Surface.npix
  calc x * S.h.toNat + y < x * S.h.toNat + S.h.toNat := by omega
    _ = (x + 1) * S.h.toNat := by rw [Nat.succ_mul]
    _ ≤ S.w.toNat * S.h.toNat := Nat.mul_le_mul_right _ hx

theorem Surface.clips_iff (S : Surface) (x y : BitVec 12) :
    S.clips x y = true ↔ S.w.toNat ≤ x.toNat ∨ S.h.toNat ≤ y.toNat := by
  simp [Surface.clips]

/-- A hex digit's code is `0x30..0x39` or `0x41..0x46` (41_hex_encoder.md R92). -/
theorem digit_range (n : BitVec 4) :
    (0x30 ≤ (digit n).toNat ∧ (digit n).toNat ≤ 0x39) ∨
      (0x41 ≤ (digit n).toNat ∧ (digit n).toNat ≤ 0x46) := by
  revert n; decide

end Sys2Proof.Machine
end

