-- ==== Sys2Proof/Laws/Memory.lean ====
section
/-! SUPPORT. OB and FB: a read after a write, and the canonical form, which every operation keeps. -/

namespace Sys2Proof.Machine

@[simp] theorem Memory.read_write_same (m : Memory) (o : Nat) (b : Byte) :
    (m.write o b).read o = some b := by
  induction m with
  | nil => simp [Memory.write, Memory.read]
  | cons c m ih =>
    unfold Memory.write
    split
    · simp [Memory.read]
    · split
      · simp [Memory.read]
      · rename_i h1 h2
        simp [Memory.read, ih, Ne.symm h2]

theorem Memory.read_write_other (m : Memory) {o a : Nat} (b : Byte) (h : a ≠ o) :
    (m.write o b).read a = m.read a := by
  induction m with
  | nil => simp [Memory.write, Memory.read, Ne.symm h]
  | cons c m ih =>
    unfold Memory.write
    split
    · simp [Memory.read, Ne.symm h]
    · split
      · rename_i h2
        simp [Memory.read, Ne.symm h, ← h2]
      · simp [Memory.read, ih]

/-- The least offset a canonical memory lists is below what its tail lists. -/
theorem Memory.wf_tail {c : Host.Cell} {m : Memory} (h : Memory.wf (c :: m) = true) :
    Memory.wf m = true := by
  cases m with
  | nil => rfl
  | cons d m => simp only [Memory.wf, Bool.and_eq_true] at h; exact h.2

theorem Memory.wf_cons {o : Nat} {b : Byte} {m : Memory} (hm : Memory.wf m = true)
    (ho : o < 2 ^ 28) (hlt : ∀ c ∈ m.head?, o < c.1) : Memory.wf ((o, b) :: m) = true := by
  cases m with
  | nil => simpa [Memory.wf] using ho
  | cons d m =>
    simp only [Memory.wf, Bool.and_eq_true, decide_eq_true_eq]
    exact ⟨hlt d rfl, hm⟩

theorem Memory.wf_head_lt {c : Host.Cell} {m : Memory} (h : Memory.wf (c :: m) = true) :
    ∀ d ∈ m.head?, c.1 < d.1 := by
  cases m with
  | nil => simp
  | cons d m =>
    simp only [Memory.wf, Bool.and_eq_true, decide_eq_true_eq] at h
    simpa using h.1

theorem Memory.wf_head_bound {c : Host.Cell} {m : Memory} (h : Memory.wf (c :: m) = true) :
    c.1 < 2 ^ 28 := by
  induction m generalizing c with
  | nil => simpa [Memory.wf] using h
  | cons d m ih =>
    have := Memory.wf_head_lt h d rfl
    exact this.trans (ih (Memory.wf_tail h))

theorem Memory.head_write (m : Memory) (o : Nat) (b : Byte) :
    ∀ d ∈ (m.write o b).head?, d.1 = o ∨ ∃ c ∈ m.head?, d.1 = c.1 := by
  cases m with
  | nil => simp [Memory.write]
  | cons c m =>
    unfold Memory.write
    split
    · simp
    · split <;> simp

/-- A write keeps the canonical form. -/
theorem Memory.write_wf {m : Memory} (hm : m.wf = true) {o : Nat} (ho : o < 2 ^ 28) (b : Byte) :
    (m.write o b).wf = true := by
  induction m with
  | nil => simpa [Memory.write, Memory.wf] using ho
  | cons c m ih =>
    unfold Memory.write
    split
    · rename_i h
      exact Memory.wf_cons hm ho (by simpa using h)
    · split
      · rename_i h
        refine Memory.wf_cons (Memory.wf_tail hm) ho ?_
        rw [h]; exact Memory.wf_head_lt hm
      · rename_i h1 h2
        refine Memory.wf_cons (ih (Memory.wf_tail hm)) (Memory.wf_head_bound hm) ?_
        intro d hd
        rcases Memory.head_write m o b d hd with h | ⟨e, he, h⟩
        · omega
        · rw [h]; exact Memory.wf_head_lt hm e he

/-! HOST's writes. -/

@[simp] theorem Memory.hostWrites_nil (m : Memory) : m.hostWrites [] = m := rfl

@[simp] theorem Memory.hostWrites_cons (m : Memory) (c : BitVec 28 × Byte)
    (ws : List (BitVec 28 × Byte)) :
    m.hostWrites (c :: ws) = (m.write c.1.toNat c.2).hostWrites ws := rfl

/-- An offset that HOST does not write reads as before. -/
theorem Memory.read_hostWrites_other (m : Memory) {ws : List (BitVec 28 × Byte)} {o : Nat}
    (h : ∀ c ∈ ws, c.1.toNat ≠ o) : (m.hostWrites ws).read o = m.read o := by
  induction ws generalizing m with
  | nil => rfl
  | cons c ws ih =>
    rw [hostWrites_cons, ih _ fun d hd => h d (List.mem_cons_of_mem _ hd),
      read_write_other _ _ (h c List.mem_cons_self).symm]

/-- What HOST's writes make of an offset depends on that offset alone. -/
theorem Memory.read_hostWrites_congr {m m' : Memory} (ws : List (BitVec 28 × Byte)) {o : Nat}
    (h : m.read o = m'.read o) : (m.hostWrites ws).read o = (m'.hostWrites ws).read o := by
  induction ws generalizing m m' with
  | nil => exact h
  | cons c ws ih =>
    refine ih ?_
    by_cases ho : o = c.1.toNat
    · rw [ho, read_write_same, read_write_same]
    · rw [read_write_other _ _ ho, read_write_other _ _ ho, h]

/-- HOST's writes keep the canonical form. -/
theorem Memory.hostWrites_wf {m : Memory} (hm : m.wf = true) (ws : List (BitVec 28 × Byte)) :
    (m.hostWrites ws).wf = true := by
  induction ws generalizing m with
  | nil => exact hm
  | cons c ws ih => exact ih (write_wf hm c.1.isLt c.2)

/-! FB. -/

@[simp] theorem fbWrite_length (fb : List Bool) (i : Nat) (v : Bool) :
    (fbWrite fb i v).length = fb.length := by simp [fbWrite]

theorem fbRead_write_same {fb : List Bool} {i : Nat} (h : i < fb.length) (v : Bool) :
    fbRead (fbWrite fb i v) i = v := by
  simp [fbRead, fbWrite, List.getD_eq_getElem?_getD, h]

theorem fbRead_write_other (fb : List Bool) {i j : Nat} (h : j ≠ i) (v : Bool) :
    fbRead (fbWrite fb i v) j = fbRead fb j := by
  simp [fbRead, fbWrite, List.getD_eq_getElem?_getD, List.getElem?_set_ne (Ne.symm h)]

@[simp] theorem fbZero_length (n : Nat) : (fbZero n).length = n := by simp [fbZero]

@[simp] theorem fbRead_zero (n i : Nat) : fbRead (fbZero n) i = false := by
  simp only [fbRead, fbZero, List.getD_eq_getElem?_getD, List.getElem?_replicate]
  split <;> rfl

end Sys2Proof.Machine
end

