-- ==== Sys2Proof/Laws/State.lean ====
section
/-! SUPPORT. What each named update of State leaves in each field: one lemma per field per update, so that
no proof unfolds a record update. -/

namespace Sys2Proof.Machine

variable (s : State)

/-! `State.respond` -/

@[simp] theorem State.respond_cfg (v : BitVec 4) (x : BitVec 32) : (s.respond v x).cfg = s.cfg := rfl
@[simp] theorem State.respond_w (v : BitVec 4) (x : BitVec 32) : (s.respond v x).w = s.w := rfl
@[simp] theorem State.respond_h (v : BitVec 4) (x : BitVec 32) : (s.respond v x).h = s.h := rfl
@[simp] theorem State.respond_addr (v : BitVec 4) (x : BitVec 32) : (s.respond v x).addr = s.addr := rfl
@[simp] theorem State.respond_fb (v : BitVec 4) (x : BitVec 32) : (s.respond v x).fb = s.fb := rfl
@[simp] theorem State.respond_faults (v : BitVec 4) (x : BitVec 32) : (s.respond v x).faults = s.faults := rfl
@[simp] theorem State.respond_resp (v : BitVec 4) (x : BitVec 32) : (s.respond v x).resp = ⟨v, x⟩ := rfl
@[simp] theorem State.respond_phase (v : BitVec 4) (x : BitVec 32) : (s.respond v x).phase = s.phase := rfl
@[simp] theorem State.respond_nib (v : BitVec 4) (x : BitVec 32) : (s.respond v x).nib = s.nib := rfl
@[simp] theorem State.respond_k (v : BitVec 4) (x : BitVec 32) : (s.respond v x).k = s.k := rfl
@[simp] theorem State.respond_sum (v : BitVec 4) (x : BitVec 32) : (s.respond v x).sum = s.sum := rfl
@[simp] theorem State.respond_pos (v : BitVec 4) (x : BitVec 32) : (s.respond v x).pos = s.pos := rfl
@[simp] theorem State.respond_mode (v : BitVec 4) (x : BitVec 32) : (s.respond v x).mode = s.mode := rfl
@[simp] theorem State.respond_capr (v : BitVec 4) (x : BitVec 32) : (s.respond v x).capr = s.capr := rfl
@[simp] theorem State.respond_ob (v : BitVec 4) (x : BitVec 32) : (s.respond v x).ob = s.ob := rfl
@[simp] theorem State.respond_snk (v : BitVec 4) (x : BitVec 32) : (s.respond v x).snk = s.snk := rfl
@[simp] theorem State.respond_responses (v : BitVec 4) (x : BitVec 32) : (s.respond v x).responses = s.responses ++ [⟨v, x⟩] := rfl
@[simp] theorem State.respond_snkPast (v : BitVec 4) (x : BitVec 32) : (s.respond v x).snkPast = s.snkPast := rfl
@[simp] theorem State.respond_inputs (v : BitVec 4) (x : BitVec 32) : (s.respond v x).inputs = s.inputs := rfl
@[simp] theorem State.respond_draws (v : BitVec 4) (x : BitVec 32) : (s.respond v x).draws = s.draws := rfl
@[simp] theorem State.respond_surface (v : BitVec 4) (x : BitVec 32) : (s.respond v x).surface = s.surface := rfl

/-! `State.raise` -/

@[simp] theorem State.raise_cfg (f : EncFault) : (s.raise f).cfg = s.cfg := rfl
@[simp] theorem State.raise_w (f : EncFault) : (s.raise f).w = s.w := rfl
@[simp] theorem State.raise_h (f : EncFault) : (s.raise f).h = s.h := rfl
@[simp] theorem State.raise_addr (f : EncFault) : (s.raise f).addr = s.addr := rfl
@[simp] theorem State.raise_fb (f : EncFault) : (s.raise f).fb = s.fb := rfl
@[simp] theorem State.raise_faults (f : EncFault) : (s.raise f).faults = setFaultBit s.faults f.code := rfl
@[simp] theorem State.raise_resp (f : EncFault) : (s.raise f).resp = ⟨f.code, 0⟩ := rfl
@[simp] theorem State.raise_phase (f : EncFault) : (s.raise f).phase = .idle := rfl
@[simp] theorem State.raise_nib (f : EncFault) : (s.raise f).nib = s.nib := rfl
@[simp] theorem State.raise_k (f : EncFault) : (s.raise f).k = s.k := rfl
@[simp] theorem State.raise_sum (f : EncFault) : (s.raise f).sum = s.sum := rfl
@[simp] theorem State.raise_pos (f : EncFault) : (s.raise f).pos = s.pos := rfl
@[simp] theorem State.raise_mode (f : EncFault) : (s.raise f).mode = s.mode := rfl
@[simp] theorem State.raise_capr (f : EncFault) : (s.raise f).capr = s.capr := rfl
@[simp] theorem State.raise_ob (f : EncFault) : (s.raise f).ob = s.ob := rfl
@[simp] theorem State.raise_snk (f : EncFault) : (s.raise f).snk = s.snk := rfl
@[simp] theorem State.raise_responses (f : EncFault) : (s.raise f).responses = s.responses ++ [⟨f.code, 0⟩] := rfl
@[simp] theorem State.raise_snkPast (f : EncFault) : (s.raise f).snkPast = s.snkPast := rfl
@[simp] theorem State.raise_inputs (f : EncFault) : (s.raise f).inputs = s.inputs := rfl
@[simp] theorem State.raise_draws (f : EncFault) : (s.raise f).draws = s.draws := rfl
@[simp] theorem State.raise_surface (f : EncFault) : (s.raise f).surface = s.surface := rfl

/-! `State.startBufferFill` -/

@[simp] theorem State.startBufferFill_cfg (c : BitVec 28) : (s.startBufferFill c).cfg = s.cfg := rfl
@[simp] theorem State.startBufferFill_w (c : BitVec 28) : (s.startBufferFill c).w = s.w := rfl
@[simp] theorem State.startBufferFill_h (c : BitVec 28) : (s.startBufferFill c).h = s.h := rfl
@[simp] theorem State.startBufferFill_addr (c : BitVec 28) : (s.startBufferFill c).addr = s.addr := rfl
@[simp] theorem State.startBufferFill_fb (c : BitVec 28) : (s.startBufferFill c).fb = s.fb := rfl
@[simp] theorem State.startBufferFill_faults (c : BitVec 28) : (s.startBufferFill c).faults = s.faults := rfl
@[simp] theorem State.startBufferFill_resp (c : BitVec 28) : (s.startBufferFill c).resp = s.resp := rfl
@[simp] theorem State.startBufferFill_phase (c : BitVec 28) : (s.startBufferFill c).phase = .sof := rfl
@[simp] theorem State.startBufferFill_nib (c : BitVec 28) : (s.startBufferFill c).nib = s.nib := rfl
@[simp] theorem State.startBufferFill_k (c : BitVec 28) : (s.startBufferFill c).k = s.k := rfl
@[simp] theorem State.startBufferFill_sum (c : BitVec 28) : (s.startBufferFill c).sum = s.sum := rfl
@[simp] theorem State.startBufferFill_pos (c : BitVec 28) : (s.startBufferFill c).pos = 0 := rfl
@[simp] theorem State.startBufferFill_mode (c : BitVec 28) : (s.startBufferFill c).mode = .bufferFill := rfl
@[simp] theorem State.startBufferFill_capr (c : BitVec 28) : (s.startBufferFill c).capr = c := rfl
@[simp] theorem State.startBufferFill_ob (c : BitVec 28) : (s.startBufferFill c).ob = s.ob := rfl
@[simp] theorem State.startBufferFill_snk (c : BitVec 28) : (s.startBufferFill c).snk = s.snk := rfl
@[simp] theorem State.startBufferFill_responses (c : BitVec 28) : (s.startBufferFill c).responses = s.responses := rfl
@[simp] theorem State.startBufferFill_snkPast (c : BitVec 28) : (s.startBufferFill c).snkPast = s.snkPast := rfl
@[simp] theorem State.startBufferFill_inputs (c : BitVec 28) : (s.startBufferFill c).inputs = s.inputs := rfl
@[simp] theorem State.startBufferFill_draws (c : BitVec 28) : (s.startBufferFill c).draws = s.draws := rfl
@[simp] theorem State.startBufferFill_surface (c : BitVec 28) : (s.startBufferFill c).surface = s.surface := rfl

/-! `State.startStream` -/

@[simp] theorem State.startStream_cfg : s.startStream.cfg = s.cfg := rfl
@[simp] theorem State.startStream_w : s.startStream.w = s.w := rfl
@[simp] theorem State.startStream_h : s.startStream.h = s.h := rfl
@[simp] theorem State.startStream_addr : s.startStream.addr = s.addr := rfl
@[simp] theorem State.startStream_fb : s.startStream.fb = s.fb := rfl
@[simp] theorem State.startStream_faults : s.startStream.faults = s.faults := rfl
@[simp] theorem State.startStream_resp : s.startStream.resp = s.resp := rfl
@[simp] theorem State.startStream_phase : s.startStream.phase = .sof := rfl
@[simp] theorem State.startStream_nib : s.startStream.nib = s.nib := rfl
@[simp] theorem State.startStream_k : s.startStream.k = s.k := rfl
@[simp] theorem State.startStream_sum : s.startStream.sum = s.sum := rfl
@[simp] theorem State.startStream_pos : s.startStream.pos = 0 := rfl
@[simp] theorem State.startStream_mode : s.startStream.mode = .stream := rfl
@[simp] theorem State.startStream_capr : s.startStream.capr = s.capr := rfl
@[simp] theorem State.startStream_ob : s.startStream.ob = s.ob := rfl
@[simp] theorem State.startStream_snk : s.startStream.snk = s.snk := rfl
@[simp] theorem State.startStream_responses : s.startStream.responses = s.responses := rfl
@[simp] theorem State.startStream_snkPast : s.startStream.snkPast = s.snkPast := rfl
@[simp] theorem State.startStream_inputs : s.startStream.inputs = s.inputs := rfl
@[simp] theorem State.startStream_draws : s.startStream.draws = s.draws := rfl
@[simp] theorem State.startStream_surface : s.startStream.surface = s.surface := rfl

/-! `State.obPut` -/

@[simp] theorem State.obPut_cfg (b : Byte) : (s.obPut b).cfg = s.cfg := rfl
@[simp] theorem State.obPut_w (b : Byte) : (s.obPut b).w = s.w := rfl
@[simp] theorem State.obPut_h (b : Byte) : (s.obPut b).h = s.h := rfl
@[simp] theorem State.obPut_addr (b : Byte) : (s.obPut b).addr = s.addr := rfl
@[simp] theorem State.obPut_fb (b : Byte) : (s.obPut b).fb = s.fb := rfl
@[simp] theorem State.obPut_faults (b : Byte) : (s.obPut b).faults = s.faults := rfl
@[simp] theorem State.obPut_resp (b : Byte) : (s.obPut b).resp = s.resp := rfl
@[simp] theorem State.obPut_phase (b : Byte) : (s.obPut b).phase = s.phase := rfl
@[simp] theorem State.obPut_nib (b : Byte) : (s.obPut b).nib = s.nib := rfl
@[simp] theorem State.obPut_k (b : Byte) : (s.obPut b).k = s.k := rfl
@[simp] theorem State.obPut_sum (b : Byte) : (s.obPut b).sum = s.sum := rfl
@[simp] theorem State.obPut_pos (b : Byte) : (s.obPut b).pos = s.pos + 1 := rfl
@[simp] theorem State.obPut_mode (b : Byte) : (s.obPut b).mode = s.mode := rfl
@[simp] theorem State.obPut_capr (b : Byte) : (s.obPut b).capr = s.capr := rfl
@[simp] theorem State.obPut_ob (b : Byte) : (s.obPut b).ob = s.ob.write s.pos.toNat b := rfl
@[simp] theorem State.obPut_snk (b : Byte) : (s.obPut b).snk = s.snk := rfl
@[simp] theorem State.obPut_responses (b : Byte) : (s.obPut b).responses = s.responses := rfl
@[simp] theorem State.obPut_snkPast (b : Byte) : (s.obPut b).snkPast = s.snkPast := rfl
@[simp] theorem State.obPut_inputs (b : Byte) : (s.obPut b).inputs = s.inputs := rfl
@[simp] theorem State.obPut_draws (b : Byte) : (s.obPut b).draws = s.draws := rfl
@[simp] theorem State.obPut_surface (b : Byte) : (s.obPut b).surface = s.surface := rfl

/-! `State.snkPut` -/

@[simp] theorem State.snkPut_cfg (b : Byte) : (s.snkPut b).cfg = s.cfg := rfl
@[simp] theorem State.snkPut_w (b : Byte) : (s.snkPut b).w = s.w := rfl
@[simp] theorem State.snkPut_h (b : Byte) : (s.snkPut b).h = s.h := rfl
@[simp] theorem State.snkPut_addr (b : Byte) : (s.snkPut b).addr = s.addr := rfl
@[simp] theorem State.snkPut_fb (b : Byte) : (s.snkPut b).fb = s.fb := rfl
@[simp] theorem State.snkPut_faults (b : Byte) : (s.snkPut b).faults = s.faults := rfl
@[simp] theorem State.snkPut_resp (b : Byte) : (s.snkPut b).resp = s.resp := rfl
@[simp] theorem State.snkPut_phase (b : Byte) : (s.snkPut b).phase = s.phase := rfl
@[simp] theorem State.snkPut_nib (b : Byte) : (s.snkPut b).nib = s.nib := rfl
@[simp] theorem State.snkPut_k (b : Byte) : (s.snkPut b).k = s.k := rfl
@[simp] theorem State.snkPut_sum (b : Byte) : (s.snkPut b).sum = s.sum := rfl
@[simp] theorem State.snkPut_pos (b : Byte) : (s.snkPut b).pos = s.pos + 1 := rfl
@[simp] theorem State.snkPut_mode (b : Byte) : (s.snkPut b).mode = s.mode := rfl
@[simp] theorem State.snkPut_capr (b : Byte) : (s.snkPut b).capr = s.capr := rfl
@[simp] theorem State.snkPut_ob (b : Byte) : (s.snkPut b).ob = s.ob := rfl
@[simp] theorem State.snkPut_snk (b : Byte) : (s.snkPut b).snk = s.snk ++ [b] := rfl
@[simp] theorem State.snkPut_responses (b : Byte) : (s.snkPut b).responses = s.responses := rfl
@[simp] theorem State.snkPut_snkPast (b : Byte) : (s.snkPut b).snkPast = s.snkPast := rfl
@[simp] theorem State.snkPut_inputs (b : Byte) : (s.snkPut b).inputs = s.inputs := rfl
@[simp] theorem State.snkPut_draws (b : Byte) : (s.snkPut b).draws = s.draws := rfl
@[simp] theorem State.snkPut_surface (b : Byte) : (s.snkPut b).surface = s.surface := rfl

/-! `State.addSum` -/

@[simp] theorem State.addSum_cfg (r : Byte) : (s.addSum r).cfg = s.cfg := rfl
@[simp] theorem State.addSum_w (r : Byte) : (s.addSum r).w = s.w := rfl
@[simp] theorem State.addSum_h (r : Byte) : (s.addSum r).h = s.h := rfl
@[simp] theorem State.addSum_addr (r : Byte) : (s.addSum r).addr = s.addr := rfl
@[simp] theorem State.addSum_fb (r : Byte) : (s.addSum r).fb = s.fb := rfl
@[simp] theorem State.addSum_faults (r : Byte) : (s.addSum r).faults = s.faults := rfl
@[simp] theorem State.addSum_resp (r : Byte) : (s.addSum r).resp = s.resp := rfl
@[simp] theorem State.addSum_phase (r : Byte) : (s.addSum r).phase = s.phase := rfl
@[simp] theorem State.addSum_nib (r : Byte) : (s.addSum r).nib = s.nib := rfl
@[simp] theorem State.addSum_k (r : Byte) : (s.addSum r).k = s.k := rfl
@[simp] theorem State.addSum_sum (r : Byte) : (s.addSum r).sum = s.sum + cksumTerm r := rfl
@[simp] theorem State.addSum_pos (r : Byte) : (s.addSum r).pos = s.pos := rfl
@[simp] theorem State.addSum_mode (r : Byte) : (s.addSum r).mode = s.mode := rfl
@[simp] theorem State.addSum_capr (r : Byte) : (s.addSum r).capr = s.capr := rfl
@[simp] theorem State.addSum_ob (r : Byte) : (s.addSum r).ob = s.ob := rfl
@[simp] theorem State.addSum_snk (r : Byte) : (s.addSum r).snk = s.snk := rfl
@[simp] theorem State.addSum_responses (r : Byte) : (s.addSum r).responses = s.responses := rfl
@[simp] theorem State.addSum_snkPast (r : Byte) : (s.addSum r).snkPast = s.snkPast := rfl
@[simp] theorem State.addSum_inputs (r : Byte) : (s.addSum r).inputs = s.inputs := rfl
@[simp] theorem State.addSum_draws (r : Byte) : (s.addSum r).draws = s.draws := rfl
@[simp] theorem State.addSum_surface (r : Byte) : (s.addSum r).surface = s.surface := rfl

/-! `State.configure` -/

@[simp] theorem State.configure_cfg (a b : BitVec 10) (c : BitVec 8) : (s.configure a b c).cfg = true := rfl
@[simp] theorem State.configure_w (a b : BitVec 10) (c : BitVec 8) : (s.configure a b c).w = a := rfl
@[simp] theorem State.configure_h (a b : BitVec 10) (c : BitVec 8) : (s.configure a b c).h = b := rfl
@[simp] theorem State.configure_addr (a b : BitVec 10) (c : BitVec 8) : (s.configure a b c).addr = addressLow c := rfl
@[simp] theorem State.configure_fb (a b : BitVec 10) (c : BitVec 8) : (s.configure a b c).fb = fbZero (a.toNat * b.toNat) := rfl
@[simp] theorem State.configure_faults (a b : BitVec 10) (c : BitVec 8) : (s.configure a b c).faults = s.faults := rfl
@[simp] theorem State.configure_resp (a b : BitVec 10) (c : BitVec 8) : (s.configure a b c).resp = s.resp := rfl
@[simp] theorem State.configure_phase (a b : BitVec 10) (c : BitVec 8) : (s.configure a b c).phase = s.phase := rfl
@[simp] theorem State.configure_nib (a b : BitVec 10) (c : BitVec 8) : (s.configure a b c).nib = s.nib := rfl
@[simp] theorem State.configure_k (a b : BitVec 10) (c : BitVec 8) : (s.configure a b c).k = s.k := rfl
@[simp] theorem State.configure_sum (a b : BitVec 10) (c : BitVec 8) : (s.configure a b c).sum = s.sum := rfl
@[simp] theorem State.configure_pos (a b : BitVec 10) (c : BitVec 8) : (s.configure a b c).pos = s.pos := rfl
@[simp] theorem State.configure_mode (a b : BitVec 10) (c : BitVec 8) : (s.configure a b c).mode = s.mode := rfl
@[simp] theorem State.configure_capr (a b : BitVec 10) (c : BitVec 8) : (s.configure a b c).capr = s.capr := rfl
@[simp] theorem State.configure_ob (a b : BitVec 10) (c : BitVec 8) : (s.configure a b c).ob = s.ob := rfl
@[simp] theorem State.configure_snk (a b : BitVec 10) (c : BitVec 8) : (s.configure a b c).snk = s.snk := rfl
@[simp] theorem State.configure_responses (a b : BitVec 10) (c : BitVec 8) : (s.configure a b c).responses = s.responses := rfl
@[simp] theorem State.configure_snkPast (a b : BitVec 10) (c : BitVec 8) : (s.configure a b c).snkPast = s.snkPast := rfl
@[simp] theorem State.configure_inputs (a b : BitVec 10) (c : BitVec 8) : (s.configure a b c).inputs = s.inputs := rfl
@[simp] theorem State.configure_draws (a b : BitVec 10) (c : BitVec 8) : (s.configure a b c).draws = s.draws := rfl

/-! `State.putPixel` -/

@[simp] theorem State.putPixel_cfg (x y : BitVec 12) (v : Bool) : (s.putPixel x y v).cfg = s.cfg := rfl
@[simp] theorem State.putPixel_w (x y : BitVec 12) (v : Bool) : (s.putPixel x y v).w = s.w := rfl
@[simp] theorem State.putPixel_h (x y : BitVec 12) (v : Bool) : (s.putPixel x y v).h = s.h := rfl
@[simp] theorem State.putPixel_addr (x y : BitVec 12) (v : Bool) : (s.putPixel x y v).addr = s.addr := rfl
@[simp] theorem State.putPixel_fb (x y : BitVec 12) (v : Bool) : (s.putPixel x y v).fb = fbWrite s.fb (s.surface.pixelIndex x.toNat y.toNat) v := rfl
@[simp] theorem State.putPixel_faults (x y : BitVec 12) (v : Bool) : (s.putPixel x y v).faults = s.faults := rfl
@[simp] theorem State.putPixel_resp (x y : BitVec 12) (v : Bool) : (s.putPixel x y v).resp = s.resp := rfl
@[simp] theorem State.putPixel_phase (x y : BitVec 12) (v : Bool) : (s.putPixel x y v).phase = s.phase := rfl
@[simp] theorem State.putPixel_nib (x y : BitVec 12) (v : Bool) : (s.putPixel x y v).nib = s.nib := rfl
@[simp] theorem State.putPixel_k (x y : BitVec 12) (v : Bool) : (s.putPixel x y v).k = s.k := rfl
@[simp] theorem State.putPixel_sum (x y : BitVec 12) (v : Bool) : (s.putPixel x y v).sum = s.sum := rfl
@[simp] theorem State.putPixel_pos (x y : BitVec 12) (v : Bool) : (s.putPixel x y v).pos = s.pos := rfl
@[simp] theorem State.putPixel_mode (x y : BitVec 12) (v : Bool) : (s.putPixel x y v).mode = s.mode := rfl
@[simp] theorem State.putPixel_capr (x y : BitVec 12) (v : Bool) : (s.putPixel x y v).capr = s.capr := rfl
@[simp] theorem State.putPixel_ob (x y : BitVec 12) (v : Bool) : (s.putPixel x y v).ob = s.ob := rfl
@[simp] theorem State.putPixel_snk (x y : BitVec 12) (v : Bool) : (s.putPixel x y v).snk = s.snk := rfl
@[simp] theorem State.putPixel_responses (x y : BitVec 12) (v : Bool) : (s.putPixel x y v).responses = s.responses := rfl
@[simp] theorem State.putPixel_snkPast (x y : BitVec 12) (v : Bool) : (s.putPixel x y v).snkPast = s.snkPast := rfl
@[simp] theorem State.putPixel_inputs (x y : BitVec 12) (v : Bool) : (s.putPixel x y v).inputs = s.inputs := rfl
@[simp] theorem State.putPixel_draws (x y : BitVec 12) (v : Bool) : (s.putPixel x y v).draws = s.draws := rfl

/-! `State.presentNext` -/

@[simp] theorem State.presentNext_cfg (c : CmdWord) : (s.presentNext c).cfg = s.cfg := rfl
@[simp] theorem State.presentNext_w (c : CmdWord) : (s.presentNext c).w = s.w := rfl
@[simp] theorem State.presentNext_h (c : CmdWord) : (s.presentNext c).h = s.h := rfl
@[simp] theorem State.presentNext_addr (c : CmdWord) : (s.presentNext c).addr = s.addr := rfl
@[simp] theorem State.presentNext_fb (c : CmdWord) : (s.presentNext c).fb = s.fb := rfl
@[simp] theorem State.presentNext_faults (c : CmdWord) : (s.presentNext c).faults = s.faults := rfl
@[simp] theorem State.presentNext_resp (c : CmdWord) : (s.presentNext c).resp = s.resp := rfl
@[simp] theorem State.presentNext_phase (c : CmdWord) : (s.presentNext c).phase = .idle := rfl
@[simp] theorem State.presentNext_nib (c : CmdWord) : (s.presentNext c).nib = s.nib := rfl
@[simp] theorem State.presentNext_k (c : CmdWord) : (s.presentNext c).k = s.k := rfl
@[simp] theorem State.presentNext_sum (c : CmdWord) : (s.presentNext c).sum = s.sum := rfl
@[simp] theorem State.presentNext_pos (c : CmdWord) : (s.presentNext c).pos = s.pos := rfl
@[simp] theorem State.presentNext_mode (c : CmdWord) : (s.presentNext c).mode = s.mode := rfl
@[simp] theorem State.presentNext_capr (c : CmdWord) : (s.presentNext c).capr = s.capr := rfl
@[simp] theorem State.presentNext_ob (c : CmdWord) : (s.presentNext c).ob = s.ob := rfl
@[simp] theorem State.presentNext_snk (c : CmdWord) : (s.presentNext c).snk = s.snk := rfl
@[simp] theorem State.presentNext_responses (c : CmdWord) : (s.presentNext c).responses = s.responses := rfl
@[simp] theorem State.presentNext_snkPast (c : CmdWord) : (s.presentNext c).snkPast = s.snkPast := rfl
@[simp] theorem State.presentNext_inputs (c : CmdWord) : (s.presentNext c).inputs = ⟨false, some c, false, false, []⟩ :: s.inputs := rfl
@[simp] theorem State.presentNext_draws (c : CmdWord) : (s.presentNext c).draws = s.draws := rfl
@[simp] theorem State.presentNext_surface (c : CmdWord) : (s.presentNext c).surface = s.surface := rfl

/-! `State.applyReset` -/

@[simp] theorem State.applyReset_cfg : s.applyReset.cfg = false := rfl
@[simp] theorem State.applyReset_w : s.applyReset.w = 0 := rfl
@[simp] theorem State.applyReset_h : s.applyReset.h = 0 := rfl
@[simp] theorem State.applyReset_addr : s.applyReset.addr = 0 := rfl
@[simp] theorem State.applyReset_fb : s.applyReset.fb = [] := rfl
@[simp] theorem State.applyReset_faults : s.applyReset.faults = 0 := rfl
@[simp] theorem State.applyReset_resp : s.applyReset.resp = ⟨0, 0⟩ := rfl
@[simp] theorem State.applyReset_phase : s.applyReset.phase = .idle := rfl
@[simp] theorem State.applyReset_nib : s.applyReset.nib = false := rfl
@[simp] theorem State.applyReset_k : s.applyReset.k = 0 := rfl
@[simp] theorem State.applyReset_sum : s.applyReset.sum = 0 := rfl
@[simp] theorem State.applyReset_pos : s.applyReset.pos = 0 := rfl
@[simp] theorem State.applyReset_mode : s.applyReset.mode = .bufferFill := rfl
@[simp] theorem State.applyReset_capr : s.applyReset.capr = 0 := rfl
@[simp] theorem State.applyReset_ob : s.applyReset.ob = s.ob := rfl
@[simp] theorem State.applyReset_snk : s.applyReset.snk = [] := rfl
@[simp] theorem State.applyReset_responses : s.applyReset.responses = s.responses := rfl
@[simp] theorem State.applyReset_snkPast : s.applyReset.snkPast = s.snkPast ++ s.snk := rfl
@[simp] theorem State.applyReset_inputs : s.applyReset.inputs = s.inputs := rfl
@[simp] theorem State.applyReset_draws : s.applyReset.draws = s.draws := rfl

/-! `State.portAdvance`: the environment's plan moves, and HOST's writes reach OB. -/

@[simp] theorem State.portAdvance_cfg : s.portAdvance.cfg = s.cfg := rfl
@[simp] theorem State.portAdvance_w : s.portAdvance.w = s.w := rfl
@[simp] theorem State.portAdvance_h : s.portAdvance.h = s.h := rfl
@[simp] theorem State.portAdvance_addr : s.portAdvance.addr = s.addr := rfl
@[simp] theorem State.portAdvance_fb : s.portAdvance.fb = s.fb := rfl
@[simp] theorem State.portAdvance_faults : s.portAdvance.faults = s.faults := rfl
@[simp] theorem State.portAdvance_resp : s.portAdvance.resp = s.resp := rfl
@[simp] theorem State.portAdvance_phase : s.portAdvance.phase = s.phase := rfl
@[simp] theorem State.portAdvance_nib : s.portAdvance.nib = s.nib := rfl
@[simp] theorem State.portAdvance_k : s.portAdvance.k = s.k := rfl
@[simp] theorem State.portAdvance_sum : s.portAdvance.sum = s.sum := rfl
@[simp] theorem State.portAdvance_pos : s.portAdvance.pos = s.pos := rfl
@[simp] theorem State.portAdvance_mode : s.portAdvance.mode = s.mode := rfl
@[simp] theorem State.portAdvance_capr : s.portAdvance.capr = s.capr := rfl
@[simp] theorem State.portAdvance_snk : s.portAdvance.snk = s.snk := rfl
@[simp] theorem State.portAdvance_responses : s.portAdvance.responses = s.responses := rfl
@[simp] theorem State.portAdvance_snkPast : s.portAdvance.snkPast = s.snkPast := rfl
@[simp] theorem State.portAdvance_surface : s.portAdvance.surface = s.surface := rfl
@[simp] theorem State.portAdvance_ob : s.portAdvance.ob = s.ob.hostWrites s.portNow.obWrites := rfl
@[simp] theorem State.portAdvance_inputs : s.portAdvance.inputs = s.inputs.tail := rfl
@[simp] theorem State.portAdvance_draws :
    s.portAdvance.draws = if s.inputs = [] then s.draws + 1 else s.draws := by
  simp [State.portAdvance]

/-! The instance. -/

@[simp] theorem State.surface_w : s.surface.w = s.w := rfl
@[simp] theorem State.surface_h : s.surface.h = s.h := rfl
@[simp] theorem State.surface_addr : s.surface.addr = s.addr := rfl
@[simp] theorem State.surface_fb : s.surface.fb = s.fb := rfl

end Sys2Proof.Machine
end

