-- ==== Sys2Proof/Laws/Ops.lean ====
section
/-! SUPPORT. What each shared operation can do, said once: the sink's answer, `emitThen`, the environment's plan. -/

namespace Sys2Proof.Machine

theorem sinkAnswer_error_iff (p : PortInputs) : sinkAnswer p = .error ↔ p.snkErr = true := by
  unfold sinkAnswer; split <;> (try split) <;> simp_all

theorem sinkAnswer_accept_iff (p : PortInputs) :
    sinkAnswer p = .accept ↔ p.snkErr = false ∧ p.snkReady = true := by
  unfold sinkAnswer; split <;> (try split) <;> simp_all

theorem sinkAnswer_notYet_iff (p : PortInputs) :
    sinkAnswer p = .notYet ↔ p.snkErr = false ∧ p.snkReady = false := by
  unfold sinkAnswer; split <;> (try split) <;> simp_all

/-- What `emitThen` can do when it answers a next state (43_frame_composer.md R127, R128). -/
theorem emitThen_cases {p : PortInputs} {b : Byte} {after : State → State} {s t : State}
    (h : emitThen p b after s = .next t) :
    (s.mode = .bufferFill ∧ s.pos.toNat < s.capr.toNat ∧ t = after (s.obPut b)) ∨
    (s.mode = .stream ∧ sinkAnswer p = .accept ∧ t = after (s.snkPut b)) ∨
    (s.mode = .stream ∧ sinkAnswer p = .error ∧ t = s.raise .sinkWriteFailure) ∨
    (s.mode = .stream ∧ sinkAnswer p = .notYet ∧ t = s) := by
  unfold emitThen at h
  split at h
  · rename_i hm
    split at h
    · rename_i hlt
      exact .inl ⟨hm, hlt, (Host.Outcome.next.inj h).symm⟩
    · cases h
  · rename_i hm
    split at h
    · rename_i ha; exact .inr (.inl ⟨hm, ha, (Host.Outcome.next.inj h).symm⟩)
    · rename_i ha; exact .inr (.inr (.inl ⟨hm, ha, (Host.Outcome.next.inj h).symm⟩))
    · rename_i ha; exact .inr (.inr (.inr ⟨hm, ha, (Host.Outcome.next.inj h).symm⟩))

theorem emitThen_buffer {p : PortInputs} {b : Byte} {after : State → State} {s : State}
    (hm : s.mode = .bufferFill) (hp : s.pos.toNat < s.capr.toNat) :
    emitThen p b after s = .next (after (s.obPut b)) := by
  simp [emitThen, hm, hp]

theorem emitThen_accept {p : PortInputs} {b : Byte} {after : State → State} {s : State}
    (hm : s.mode = .stream) (ha : sinkAnswer p = .accept) :
    emitThen p b after s = .next (after (s.snkPut b)) := by
  simp [emitThen, hm, ha]

theorem emitThen_error {p : PortInputs} {b : Byte} {after : State → State} {s : State}
    (hm : s.mode = .stream) (ha : sinkAnswer p = .error) :
    emitThen p b after s = .next (s.raise .sinkWriteFailure) := by
  simp [emitThen, hm, ha]

theorem emitThen_notYet {p : PortInputs} {b : Byte} {after : State → State} {s : State}
    (hm : s.mode = .stream) (ha : sinkAnswer p = .notYet) :
    emitThen p b after s = .next s := by
  simp [emitThen, hm, ha]

/-- Using up one element of the environment's plan shifts the numbering of the coming steps by one. -/
theorem State.portAt_portAdvance (s : State) (n : Nat) :
    s.portAdvance.portAt n = s.portAt (n + 1) := by
  simp only [State.portAt, State.portAdvance_inputs, State.portAdvance_draws]
  cases h : s.inputs with
  | nil =>
    simp only [List.tail_nil, List.getD_nil, List.length_nil, Nat.sub_zero, if_true]
    congr 1; omega
  | cons p rest =>
    simp only [List.tail_cons, List.getD_cons_succ, List.length_cons, reduceCtorEq, if_false]
    congr 3; omega

/-- The port levels depend on the environment's plan alone. -/
theorem State.portAt_congr {s t : State} (hi : t.inputs = s.inputs) (hd : t.draws = s.draws)
    (n : Nat) : t.portAt n = s.portAt n := by
  simp [State.portAt, hi, hd]

@[simp] theorem State.presentNext_portNow (s : State) (c : CmdWord) :
    (s.presentNext c).portNow = ⟨false, some c, false, false, []⟩ := rfl

/-- Reading a sticky bit after a fault was recorded (10_state.md R15). -/
theorem setFaultBit_getLsbD (faults : BitVec 8) (c : BitVec 4) (i : Nat) :
    (setFaultBit faults c).getLsbD i = (faults.getLsbD i || (decide (i < 8) && decide (c.toNat = i))) := by
  by_cases h : c.toNat = i
  · simp [setFaultBit, BitVec.getLsbD_twoPow, h]
  · simp [setFaultBit, BitVec.getLsbD_twoPow, h]

/-- Codes 1 to 7 (60_exceptions.md R140). -/
theorem EncFault.code_range (f : EncFault) : 1 ≤ f.code.toNat ∧ f.code.toNat ≤ 7 := by
  cases f <;> exact ⟨by simp [EncFault.code], by simp [EncFault.code]⟩

end Sys2Proof.Machine
end

