-- ==== Sys2Proof/Laws/PerInstr.lean ====
section
/-! SUPPORT. The family `MatchesRow`: a command's word is a word of its row of the opcode table
(30_encoding.md R60), one lemma per constructor. -/

namespace Sys2Proof

/-- Masking with the opcode's four bits keeps the opcode. -/
theorem and_opMask (cmd : CmdWord) :
    cmd &&& (0xF0000000 : CmdWord) = (opField cmd).setWidth 32 <<< 28 := by
  apply BitVec.eq_of_getLsbD_eq
  intro i hi
  interval_cases i <;> simp [opField]

/-- Masking with SET_PIXEL's mask keeps the opcode and the reserved bits. -/
theorem and_setPixelMask (cmd : CmdWord) :
    cmd &&& (0xF0000007 : CmdWord) =
      (opField cmd).setWidth 32 <<< 28 ||| (cmd.extractLsb' 0 3).setWidth 32 := by
  apply BitVec.eq_of_getLsbD_eq
  intro i hi
  interval_cases i <;> simp [opField]

end Sys2Proof

namespace Sys2Proof.Laws.MatchesRow

/-- `cmd & mask = match` for the word of `i` (30_encoding.md R60). -/
def Statement (i : Instr) : Prop := encode i &&& rowMask i = rowMatch i

theorem create (width height : BitVec 10) (address : BitVec 8) :
    Statement (.create width height address) := by
  have ho : opField (encode (.create width height address)) = 1#4 := opField_encode _
  show encode _ &&& (0xF0000000 : CmdWord) = 0x10000000
  rw [and_opMask, ho]; decide

theorem setPixel (x y : BitVec 12) (value : Bool) : Statement (.setPixel x y value) := by
  have hr : (encode (.setPixel x y value)).extractLsb' 0 3 = 0 := by
    apply BitVec.eq_of_toNat_eq
    simp only [field_toNat, encode_setPixel_toNat]
    simp; omega
  have ho : opField (encode (.setPixel x y value)) = 2#4 := opField_encode _
  show encode _ &&& (0xF0000007 : CmdWord) = 0x20000000
  rw [and_setPixelMask, ho, hr]; decide

theorem dimensions : Statement .dimensions := rfl

theorem frameSize : Statement .frameSize := rfl

theorem encodeInto (cap : BitVec 28) : Statement (.encodeInto cap) := by
  have ho : opField (encode (.encodeInto cap)) = 5#4 := opField_encode _
  show encode _ &&& (0xF0000000 : CmdWord) = 0x50000000
  rw [and_opMask, ho]; decide

theorem encodeToSink : Statement .encodeToSink := rfl

end Sys2Proof.Laws.MatchesRow
end

