-- ==== Sys2Proof/Laws/Step.lean ====
section
/-! SUPPORT. What a command and a step can do, said once: the inversion lemmas of `exec`, `seqStep`,
`cycle` and `step`, and what the sequencer leaves alone. -/

namespace Sys2Proof.Machine

/-! The commands. -/

/-- What CREATE can do (40_framebuffer.md R70). -/
theorem execCreate_cases {width height : BitVec 10} {address : BitVec 8} {s t : State}
    (h : execCreate width height address s = .next t) :
    (∃ f, t = s.raise f) ∨
      (s.cfg = false ∧ address.toNat < 16 ∧ width ≠ 0 ∧ height ≠ 0 ∧
        t = (s.configure width height address).respond 0 0) := by
  unfold execCreate at h
  split at h
  · exact .inl ⟨_, (Host.Outcome.next.inj h).symm⟩
  · rename_i hc
    split at h
    · exact .inl ⟨_, (Host.Outcome.next.inj h).symm⟩
    · rename_i ha
      split at h
      · exact .inl ⟨_, (Host.Outcome.next.inj h).symm⟩
      · rename_i hd
        refine .inr ⟨by simpa using hc, ?_, ?_, ?_, (Host.Outcome.next.inj h).symm⟩
        · by_contra hge
          exact ha (decide_eq_true (by unfold Config.addrLimit; omega))
        · intro hw; simp [dimensionIsZero, hw] at hd
        · intro hh; simp [dimensionIsZero, hh] at hd

/-- What SET_PIXEL can do (40_framebuffer.md R72). -/
theorem execSetPixel_cases {x y : BitVec 12} {v : Bool} {s t : State}
    (h : execSetPixel x y v s = .next t) :
    (∃ f, t = s.raise f) ∨
      (s.cfg = true ∧ s.surface.clips x y = true ∧ t = s.respond 0 0) ∨
      (s.cfg = true ∧ s.surface.clips x y = false ∧ t = (s.putPixel x y v).respond 0 0) := by
  unfold execSetPixel at h
  split at h
  · rename_i hc
    split at h
    · rename_i hk; exact .inr (.inl ⟨hc, hk, (Host.Outcome.next.inj h).symm⟩)
    · rename_i hk
      exact .inr (.inr ⟨hc, by simpa using hk, (Host.Outcome.next.inj h).symm⟩)
  · exact .inl ⟨_, (Host.Outcome.next.inj h).symm⟩

/-- What a command can do: a fault, or its own effect on a configured block (60_exceptions.md R141;
40_framebuffer.md R70, R72, R74; 43_frame_composer.md R116 to R118). -/
theorem exec_cases {i : Instr} {s t : State} (h : exec i s = .next t) :
    (∃ f, t = s.raise f) ∨
    (∃ width height address, i = .create width height address ∧ s.cfg = false ∧
      address.toNat < 16 ∧ width ≠ 0 ∧ height ≠ 0 ∧
      t = (s.configure width height address).respond 0 0) ∨
    (∃ x y v, i = .setPixel x y v ∧ s.cfg = true ∧
      ((s.surface.clips x y = true ∧ t = s.respond 0 0) ∨
        (s.surface.clips x y = false ∧ t = (s.putPixel x y v).respond 0 0))) ∨
    (i = .dimensions ∧ s.cfg = true ∧ t = s.respond 0 (dimensionsValue s.w s.h)) ∨
    (i = .frameSize ∧ s.cfg = true ∧ t = s.respond 0 (lengthValue s.surface.frameLength)) ∨
    (∃ cap, i = .encodeInto cap ∧ s.cfg = true ∧ s.surface.frameLength ≤ cap.toNat ∧
      t = s.startBufferFill cap) ∨
    (i = .encodeToSink ∧ s.cfg = true ∧ t = s.startStream) := by
  cases i with
  | create w hh a =>
    rcases execCreate_cases h with hf | ⟨h1, h2, h3, h4, h5⟩
    · exact .inl hf
    · exact .inr (.inl ⟨w, hh, a, rfl, h1, h2, h3, h4, h5⟩)
  | setPixel x y v =>
    rcases execSetPixel_cases h with hf | ⟨h1, h2, h3⟩ | ⟨h1, h2, h3⟩
    · exact .inl hf
    · exact .inr (.inr (.inl ⟨x, y, v, rfl, h1, .inl ⟨h2, h3⟩⟩))
    · exact .inr (.inr (.inl ⟨x, y, v, rfl, h1, .inr ⟨h2, h3⟩⟩))
  | dimensions =>
    simp only [exec, execDimensions] at h
    split at h
    · rename_i hc
      exact .inr (.inr (.inr (.inl ⟨rfl, hc, (Host.Outcome.next.inj h).symm⟩)))
    · exact .inl ⟨_, (Host.Outcome.next.inj h).symm⟩
  | frameSize =>
    simp only [exec, execFrameSize] at h
    split at h
    · rename_i hc
      exact .inr (.inr (.inr (.inr (.inl ⟨rfl, hc, (Host.Outcome.next.inj h).symm⟩))))
    · exact .inl ⟨_, (Host.Outcome.next.inj h).symm⟩
  | encodeInto cap =>
    simp only [exec, execEncodeInto] at h
    split at h
    · rename_i hc
      split at h
      · exact .inl ⟨_, (Host.Outcome.next.inj h).symm⟩
      · rename_i hl
        exact .inr (.inr (.inr (.inr (.inr (.inl
          ⟨cap, rfl, hc, by omega, (Host.Outcome.next.inj h).symm⟩)))))
    · exact .inl ⟨_, (Host.Outcome.next.inj h).symm⟩
  | encodeToSink =>
    simp only [exec, execEncodeToSink] at h
    split at h
    · rename_i hc
      exact .inr (.inr (.inr (.inr (.inr (.inr ⟨rfl, hc, (Host.Outcome.next.inj h).symm⟩)))))
    · exact .inl ⟨_, (Host.Outcome.next.inj h).symm⟩

/-- No command stops the machine: the spec's faults are responses (60_exceptions.md R146). -/
theorem exec_goes_on (i : Instr) (s : State) : GoesOn (exec i s) := by
  cases i <;>
    simp only [exec, execCreate, execSetPixel, execDimensions, execFrameSize, execEncodeInto,
      execEncodeToSink] <;>
    repeat' split
  all_goals exact ⟨_, rfl⟩

/-! The sequencer. -/

/-- A sequencer step's second half leaves everything but PHASE, NIB, K, SUM and the response alone. -/
theorem State.seqAdvance_frame (s : State) :
    s.seqAdvance.cfg = s.cfg ∧ s.seqAdvance.w = s.w ∧ s.seqAdvance.h = s.h ∧
    s.seqAdvance.addr = s.addr ∧ s.seqAdvance.fb = s.fb ∧ s.seqAdvance.faults = s.faults ∧
    s.seqAdvance.pos = s.pos ∧ s.seqAdvance.mode = s.mode ∧ s.seqAdvance.capr = s.capr ∧
    s.seqAdvance.ob = s.ob ∧ s.seqAdvance.snk = s.snk ∧ s.seqAdvance.snkPast = s.snkPast ∧
    s.seqAdvance.inputs = s.inputs ∧ s.seqAdvance.draws = s.draws := by
  unfold State.seqAdvance
  repeat' split
  all_goals exact ⟨rfl, rfl, rfl, rfl, rfl, rfl, rfl, rfl, rfl, rfl, rfl, rfl, rfl, rfl⟩

@[simp] theorem State.seqAdvance_cfg (s : State) : s.seqAdvance.cfg = s.cfg :=
  s.seqAdvance_frame.1
@[simp] theorem State.seqAdvance_w (s : State) : s.seqAdvance.w = s.w := s.seqAdvance_frame.2.1
@[simp] theorem State.seqAdvance_h (s : State) : s.seqAdvance.h = s.h := s.seqAdvance_frame.2.2.1
@[simp] theorem State.seqAdvance_addr (s : State) : s.seqAdvance.addr = s.addr :=
  s.seqAdvance_frame.2.2.2.1
@[simp] theorem State.seqAdvance_fb (s : State) : s.seqAdvance.fb = s.fb :=
  s.seqAdvance_frame.2.2.2.2.1
@[simp] theorem State.seqAdvance_faults (s : State) : s.seqAdvance.faults = s.faults :=
  s.seqAdvance_frame.2.2.2.2.2.1
@[simp] theorem State.seqAdvance_pos (s : State) : s.seqAdvance.pos = s.pos :=
  s.seqAdvance_frame.2.2.2.2.2.2.1
@[simp] theorem State.seqAdvance_mode (s : State) : s.seqAdvance.mode = s.mode :=
  s.seqAdvance_frame.2.2.2.2.2.2.2.1
@[simp] theorem State.seqAdvance_capr (s : State) : s.seqAdvance.capr = s.capr :=
  s.seqAdvance_frame.2.2.2.2.2.2.2.2.1
@[simp] theorem State.seqAdvance_ob (s : State) : s.seqAdvance.ob = s.ob :=
  s.seqAdvance_frame.2.2.2.2.2.2.2.2.2.1
@[simp] theorem State.seqAdvance_snk (s : State) : s.seqAdvance.snk = s.snk :=
  s.seqAdvance_frame.2.2.2.2.2.2.2.2.2.2.1
@[simp] theorem State.seqAdvance_snkPast (s : State) : s.seqAdvance.snkPast = s.snkPast :=
  s.seqAdvance_frame.2.2.2.2.2.2.2.2.2.2.2.1
@[simp] theorem State.seqAdvance_inputs (s : State) : s.seqAdvance.inputs = s.inputs :=
  s.seqAdvance_frame.2.2.2.2.2.2.2.2.2.2.2.2.1
@[simp] theorem State.seqAdvance_draws (s : State) : s.seqAdvance.draws = s.draws :=
  s.seqAdvance_frame.2.2.2.2.2.2.2.2.2.2.2.2.2
@[simp] theorem State.seqAdvance_surface (s : State) : s.seqAdvance.surface = s.surface := by
  simp [State.surface]

/-- A sequencer step's second half either stays in the frame and responds to nobody, or ends it with the
one OK response (43_frame_composer.md R121 to R126). -/
theorem State.seqAdvance_response {s : State} (h : s.phase ≠ .idle) :
    (s.seqAdvance.phase ≠ .idle ∧ s.seqAdvance.resp = s.resp ∧
      s.seqAdvance.responses = s.responses) ∨
    (s.phase = .ck ∧ s.nib = true ∧ s.seqAdvance.phase = .idle ∧
      s.seqAdvance.resp = ⟨0, lengthValue s.surface.frameLength⟩ ∧
      s.seqAdvance.responses = s.responses ++ [⟨0, lengthValue s.surface.frameLength⟩]) := by
  unfold State.seqAdvance
  repeat' split
  all_goals simp_all

/-! One step. -/

theorem cycle_reset {p : PortInputs} {s : State} (h : p.rst = true) :
    cycle p s = .next s.applyReset := by simp [cycle, h]

theorem cycle_wait {p : PortInputs} {s : State} (h : p.rst = false) (hi : s.phase = .idle)
    (hc : p.cmd = none) : cycle p s = .next s := by simp [cycle, h, hi, hc]

theorem cycle_accept {p : PortInputs} {s : State} {c : CmdWord} (h : p.rst = false)
    (hi : s.phase = .idle) (hc : p.cmd = some c) : cycle p s = acceptWord c s := by
  simp [cycle, h, hi, hc]

theorem cycle_busy {p : PortInputs} {s : State} (h : p.rst = false) (hb : s.phase ≠ .idle) :
    cycle p s = seqStep p s := by simp [cycle, h, hb]

/-- What a step can do: a reset, a wait, a command, an illegal word, or a sequencer step. -/
theorem cycle_cases {p : PortInputs} {s t : State} (h : cycle p s = .next t) :
    (p.rst = true ∧ t = s.applyReset) ∨
    (p.rst = false ∧ s.phase = .idle ∧ p.cmd = none ∧ t = s) ∨
    (∃ c i, p.rst = false ∧ s.phase = .idle ∧ p.cmd = some c ∧ decode c = .command i ∧
      exec i s = .next t) ∨
    (∃ c why, p.rst = false ∧ s.phase = .idle ∧ p.cmd = some c ∧ decode c = .illegal why ∧
      t = s.raise (.illegalCommand c)) ∨
    (p.rst = false ∧ s.phase ≠ .idle ∧ seqStep p s = .next t) := by
  unfold cycle at h
  split at h
  · rename_i hr; exact .inl ⟨hr, (Host.Outcome.next.inj h).symm⟩
  · rename_i hr
    have hr : p.rst = false := by simpa using hr
    split at h
    · rename_i hi
      split at h
      · rename_i hc; exact .inr (.inl ⟨hr, hi, hc, (Host.Outcome.next.inj h).symm⟩)
      · rename_i c hc
        unfold acceptWord at h
        split at h
        · rename_i i hd; exact .inr (.inr (.inl ⟨c, i, hr, hi, hc, hd, h⟩))
        · rename_i why hd
          exact .inr (.inr (.inr (.inl ⟨c, why, hr, hi, hc, hd, (Host.Outcome.next.inj h).symm⟩)))
    · rename_i hb; exact .inr (.inr (.inr (.inr ⟨hr, hb, h⟩)))

/-- What a busy block's step can do (43_frame_composer.md R127, R128). -/
theorem seqStep_cases {p : PortInputs} {s t : State} (h : seqStep p s = .next t) :
    (s.mode = .bufferFill ∧ s.pos.toNat < s.capr.toNat ∧ t = (s.obPut s.seqByte).seqAdvance) ∨
    (s.mode = .stream ∧ sinkAnswer p = .accept ∧ t = (s.snkPut s.seqByte).seqAdvance) ∨
    (s.mode = .stream ∧ sinkAnswer p = .error ∧ t = s.raise .sinkWriteFailure) ∨
    (s.mode = .stream ∧ sinkAnswer p = .notYet ∧ t = s) := emitThen_cases h

theorem step_eq (s : State) : step s = cycle s.portNow s.portAdvance := rfl

/-- The first step of a run of at least one step. -/
theorem run_succ_next {s t : State} {n : Nat} (h : step s = .next t) :
    core.run (n + 1) s = core.run n t := by
  have h' : core.step s = .next t := h
  simp only [Host.Core.run, h']

/-- A run of `a + b` steps is a run of `b` steps from where `a` steps lead. -/
theorem run_add (a b : Nat) (s : State) {t : State} (h : core.run a s = .next t) :
    core.run (a + b) s = core.run b t := by
  induction a generalizing s with
  | zero =>
    simp only [Host.Core.run] at h
    cases h
    simp
  | succ a ih =>
    simp only [Host.Core.run] at h
    rw [show a + 1 + b = (a + b) + 1 by omega]
    split at h
    · rename_i s' hs; exact (run_succ_next hs).trans (ih s' h)
    · cases h
    · cases h

/-- A run of one step. -/
theorem run_one {s t : State} (h : step s = .next t) : core.run 1 s = .next t := by
  have h' : core.step s = .next t := h
  simp [Host.Core.run, h']

end Sys2Proof.Machine
end

