-- ==== Sys2Proof/Tests/Slice0.lean ====
section
/-! SUPPORT. The model's own tests: the refusals of WellFormed, command words written out from the fields of
30_encoding.md, vectors of 95_test_vectors.md, at most two one-step tests a command, and for each
statement with hypotheses a concrete input that meets them. -/

open Sys2Proof Sys2Proof.Machine

namespace Sys2Proof.Tests

/-! ## WellFormed: a line that each check refuses, beside the nearest one it accepts -/

theorem test_wf_create_width :
    (Line.create 1024 8 0).wellFormed = false ∧ (Line.create 1023 8 0).wellFormed = true := by decide
theorem test_wf_create_height :
    (Line.create 8 1024 0).wellFormed = false ∧ (Line.create 8 1023 0).wellFormed = true := by decide
theorem test_wf_create_address :
    (Line.create 8 8 256).wellFormed = false ∧ (Line.create 8 8 255).wellFormed = true := by decide
theorem test_wf_setPixel_x :
    (Line.setPixel 4096 0 1).wellFormed = false ∧ (Line.setPixel 4095 0 1).wellFormed = true := by
  decide
theorem test_wf_setPixel_y :
    (Line.setPixel 0 4096 1).wellFormed = false ∧ (Line.setPixel 0 4095 1).wellFormed = true := by
  decide
theorem test_wf_setPixel_value :
    (Line.setPixel 0 0 2).wellFormed = false ∧ (Line.setPixel 0 0 1).wellFormed = true := by decide
theorem test_wf_encodeInto_cap :
    (Line.encodeInto 268435456).wellFormed = false ∧
      (Line.encodeInto 268435455).wellFormed = true := by decide
theorem test_wf_draw_low :
    (Line.draw [(0, 0, true), (-2049, 0, true)]).wellFormed = false ∧
      (Line.draw [(0, 0, true), (-2048, 0, true)]).wellFormed = true := by decide
theorem test_wf_draw_high :
    (Line.draw [(0, 4096, true)]).wellFormed = false ∧
      (Line.draw [(0, 4095, true)]).wellFormed = true := by decide

/-! ## Decode: words written out from the fields of 30_encoding.md R56 to R59, field by field -/

/-- op 0001, width 8, height 16, address 5 (R56) -/
theorem test_decode_create :
    decode 0b0001_0000001000_0000010000_00000101 = .command (.create 8 16 5) := by decide
/-- op 0010, x 7, y 2049, value 1, reserved 000 (R57) -/
theorem test_decode_setPixel :
    decode 0b0010_000000000111_100000000001_1_000 = .command (.setPixel 7 2049 true) := by decide
/-- op 0011, 28 zero bits (R58) -/
theorem test_decode_dimensions :
    decode 0b0011_0000000000000000000000000000 = .command .dimensions := by decide
/-- op 0100, 28 zero bits (R58) -/
theorem test_decode_frameSize :
    decode 0b0100_0000000000000000000000000000 = .command .frameSize := by decide
/-- op 0101, cap 10 (R59) -/
theorem test_decode_encodeInto :
    decode 0b0101_0000000000000000000000001010 = .command (.encodeInto 10) := by decide
/-- op 0110, 28 zero bits (R58) -/
theorem test_decode_encodeToSink :
    decode 0b0110_0000000000000000000000000000 = .command .encodeToSink := by decide
/-- the illegal words of 95_test_vectors.md 2.6 -/
theorem test_decode_illegal :
    decode 0x20000001 = .illegal (.reservedBits 2) ∧ decode 0x30000001 = .illegal (.reservedBits 3) ∧
    decode 0x48000000 = .illegal (.reservedBits 4) ∧ decode 0x60000010 = .illegal (.reservedBits 6) ∧
    decode 0x00000000 = .illegal (.reservedOpcode 0) ∧
    decode 0xF0000000 = .illegal (.reservedOpcode 15) := by decide
/-- DRAW of the pixel (-1, 3) is one SET_PIXEL with x 0xFFF (30_encoding.md R66) -/
theorem test_assemble_draw :
    (Line.draw [(-1, 3, true)]).assemble =
      some [0b0010_111111111111_000000000011_1_000] := by decide

/-- lines as programs P1 and P2 of 95_test_vectors.md and 30_encoding.md R65 write them -/
theorem test_text :
    (Line.create 8 8 0).text = "CREATE 8, 8, 0" ∧ (Line.setPixel 7 7 1).text = "SET_PIXEL 7, 7, 1" ∧
      (Line.draw [(0, 0, true), (-1, 3, false)]).text = "DRAW (0, 0, 1), (-1, 3, 0)" := by decide

/-! ## Functions: vectors of 95_test_vectors.md -/

/-- S1, and the rows 0x1A, 0x7F and 0xEB of 2.1 -/
theorem test_hex :
    hex 0xC0 = [0x43, 0x30] ∧ hex 0x1A = [0x31, 0x41] ∧ hex 0x7F = [0x37, 0x46] ∧
      hex 0xEB = [0x45, 0x42] := by decide
/-- rows of 2.2 -/
theorem test_cksumByte :
    cksumByte 0x00 = 0x00 ∧ cksumByte 0x1C = 0xE4 ∧ cksumByte 0x80 = 0x80 ∧
      cksumByte 0xFF = 0x01 := by decide
/-- rows of 2.3: (5, 3) on 96 by 16, (2, 1) and (2, 2) on 3 by 3 -/
theorem test_pixelIndex :
    (⟨96, 16, 0, []⟩ : Surface).pixelIndex 5 3 = 83 ∧
      (⟨3, 3, 0, []⟩ : Surface).pixelIndex 2 1 = 7 ∧
      (⟨3, 3, 0, []⟩ : Surface).pixelIndex 2 2 = 8 := by decide
/-- the frame sizes listed in 2.4 -/
theorem test_frameSize :
    frameSize 8 8 = 24 ∧ frameSize 96 16 = 392 ∧ frameSize 3 3 = 12 ∧ frameSize 1 1 = 10 ∧
      frameSize 64 32 = 520 ∧ frameSize 1023 1023 = 261642 ∧ frameSize 1 9 = 12 := by decide
/-- the numbers of PHASE and MODE (10_state.md R19, R22) -/
theorem test_codes :
    [Phase.idle, .sof, .hdr, .res, .pay, .eof, .ck].map Phase.code = [0, 1, 2, 3, 4, 5, 6] ∧
      OutMode.bufferFill.code = 0 ∧ OutMode.stream.code = 1 := by decide
/-- V6 of 2.4 -/
theorem test_frame_V6 :
    (⟨2, 4, 3, [true, false, false, true, true, false, false, true]⟩ : Surface).frame =
      [0x02, 0x31, 0x34, 0x30, 0x31, 0x39, 0x39, 0x03, 0x34, 0x46] := by decide
/-- V4 of 2.4: two payload bytes and pad bits -/
theorem test_frame_V4 :
    (⟨3, 3, 15, [false, true, false, false, false, false, false, false, true]⟩ : Surface).frame =
      [0x02, 0x32, 0x30, 0x30, 0x31, 0x30, 0x32, 0x30, 0x31, 0x03, 0x44, 0x39] := by decide

/-! ## Small states -/

/-- A configured idle block. -/
def grid (w h : BitVec 10) (a : BitVec 4) (fb : List Bool) : State :=
  { State.reset with cfg := true, w := w, h := h, addr := a, fb := fb }

/-- V8 of 95_test_vectors.md 2.4: one pixel, on; L = 10. -/
def dot : State := grid 1 1 0 [true]

/-- V6 of 95_test_vectors.md 2.4: 2 by 4, address 3; L = 10. -/
def four : State := grid 2 4 3 [true, false, false, true, true, false, false, true]

/-- No reset, no command, SINK ready. -/
def ready : PortInputs := ⟨false, none, true, false, []⟩

/-- No reset, no command, SINK not ready. -/
def waits : PortInputs := ⟨false, none, false, false, []⟩

/-- No reset, no command, SINK reports an error. -/
def sinkError : PortInputs := ⟨false, none, false, true, []⟩

/-- No reset, HOST presents `c`, SINK ready. -/
def call (c : CmdWord) : PortInputs := ⟨false, some c, true, false, []⟩

/-- As `ready`, and HOST writes the byte 0xAA to offset `o` of OB. -/
def hostWrites (o : BitVec 28) : PortInputs := ⟨false, none, true, false, [(o, 0xAA)]⟩

/-- `s` with what the environment does in the coming steps. -/
def drive (s : State) (ins : List PortInputs) : State := { s with inputs := ins }

/-- The next state, when there is one. -/
def nextOf : Host.Outcome State Fault Refusal → Option State
  | .next t => some t
  | .fault _ => none
  | .refused _ => none

theorem next_of_isSome {o : Host.Outcome State Fault Refusal} (h : (nextOf o).isSome = true) :
    ∃ t, o = .next t := by
  cases o with
  | next t => exact ⟨t, rfl⟩
  | fault _ => cases h
  | refused _ => cases h

theorem keepsOff_of_all {p : PortInputs} {l : Nat}
    (h : (p.obWrites.all fun c => decide (l ≤ c.1.toNat)) = true) : KeepsOff p l := by
  intro c hc
  simpa using List.all_eq_true.1 h c hc

theorem hostKeepsOff_of_all {s : State} {l n : Nat}
    (h : ∀ j < n, ((s.portAt (j + 1)).obWrites.all fun c => decide (l ≤ c.1.toNat)) = true) :
    s.HostKeepsOff l n := by
  intro j h1 h2
  obtain ⟨i, rfl⟩ : ∃ i, j = i + 1 := ⟨j - 1, by omega⟩
  exact keepsOff_of_all (h i (by omega))

theorem grid_inv {w h : BitVec 10} {a : BitVec 4} {fb : List Bool} (ins : List PortInputs) (hw : w ≠ 0)
    (hh : h ≠ 0) (hl : fb.length = w.toNat * h.toNat) : (drive (grid w h a fb) ins).Inv where
  unconfigured := fun hc => Bool.noConfusion hc
  dimensions := fun _ => ⟨hw, hh⟩
  fbLength := hl
  faultsBitZero := show (0#8).getLsbD 0 = false by decide
  statusRange := show (0#4).toNat ≤ 7 by decide
  faultRecorded := fun hs => absurd rfl hs
  obCanonical := rfl
  sequencer := fun hp => absurd rfl hp

theorem dot_inv (ins : List PortInputs) : (drive dot ins).Inv :=
  grid_inv ins (by decide) (by decide) (by decide)

theorem four_inv (ins : List PortInputs) : (drive four ins).Inv :=
  grid_inv ins (by decide) (by decide) (by decide)

/-- `dot` just after an encode was accepted. -/
def dotStarts (m : OutMode) (ins : List PortInputs) : State :=
  { drive dot ins with mode := m, capr := 10, phase := .sof }

theorem dotStarts_inv (m : OutMode) (ins : List PortInputs) : (dotStarts m ins).Inv where
  unconfigured := fun hc => Bool.noConfusion hc
  dimensions := fun _ => show 1#10 ≠ 0 ∧ 1#10 ≠ 0 by decide
  fbLength := rfl
  faultsBitZero := show (0#8).getLsbD 0 = false by decide
  statusRange := show (0#4).toNat ≤ 7 by decide
  faultRecorded := fun hs => absurd rfl hs
  obCanonical := rfl
  sequencer := fun _ =>
    { configured := rfl
      position := rfl
      payloadIndex := fun hp => Phase.noConfusion hp
      runningSum := fun hp => absurd rfl hp
      room := fun _ => show frameSize 1 1 ≤ 10 by decide
      consumed := fun _ => ⟨[], rfl⟩ }

/-- `dot` before its last byte, the low checksum digit: nine bytes `<02>110001<03>E` are out (V8). -/
def dotEnds (m : OutMode) (ins : List PortInputs) : State :=
  { drive dot ins with
    mode := m
    capr := 10
    phase := .ck
    nib := true
    sum := 0x15
    pos := 9
    ob := [(0, 0x02), (1, 0x31), (2, 0x31), (3, 0x30), (4, 0x30), (5, 0x30), (6, 0x31), (7, 0x03),
      (8, 0x45)]
    snk := [0x02, 0x31, 0x31, 0x30, 0x30, 0x30, 0x31, 0x03, 0x45] }

theorem dotEnds_inv (m : OutMode) (ins : List PortInputs) : (dotEnds m ins).Inv where
  unconfigured := fun hc => Bool.noConfusion hc
  dimensions := fun _ => show 1#10 ≠ 0 ∧ 1#10 ≠ 0 by decide
  fbLength := rfl
  faultsBitZero := show (0#8).getLsbD 0 = false by decide
  statusRange := show (0#4).toNat ≤ 7 by decide
  faultRecorded := fun hs => absurd rfl hs
  obCanonical := rfl
  sequencer := fun _ =>
    { configured := rfl
      position := show (9#18).toNat = expectedPos dot.surface .ck true 0 by decide
      payloadIndex := fun hp => Phase.noConfusion hp
      runningSum := fun _ => show (0x15#8) = expectedSum dot.surface .ck 0 by decide
      room := fun _ => show frameSize 1 1 ≤ 10 by decide
      consumed := fun _ => by
        show dot.surface.frame.take 9 <:+ (dotEnds .stream []).snk
        decide }

/-! ## One step of each command -/

/-- DIMENSIONS 96 by 16 answers 0x00600010 (40_framebuffer.md R74) -/
theorem test_step_dimensions :
    (nextOf (step (drive (grid 96 16 0 []) [call 0x30000000]))).map State.resp =
      some ⟨0, 0x00600010⟩ := by decide
/-- FRAME_SIZE 96 by 16 answers 392 (95_test_vectors.md V2) -/
theorem test_step_frameSize :
    (nextOf (step (drive (grid 96 16 0 []) [call 0x40000000]))).map State.resp =
      some ⟨0, 392⟩ := by decide
/-- CREATE 3 by 2 at address 5 after reset (40_framebuffer.md R70) -/
theorem test_step_create :
    (nextOf (step (drive State.reset [call 0x100C0205]))).map State.surface =
      some ⟨3, 2, 5, [false, false, false, false, false, false]⟩ := by decide
/-- CREATE with address 200 and a zero width faults with InvalidAddress (60_exceptions.md R143) -/
theorem test_step_create_invalid :
    (nextOf (step (drive State.reset [call 0x100000C8]))).map State.resp = some ⟨1, 0⟩ := by decide
/-- SET_PIXEL (2, 1) on 3 by 3 writes index 7 (95_test_vectors.md 2.3) -/
theorem test_step_setPixel :
    (nextOf (step (drive (grid 3 3 0 (fbZero 9)) [call 0x20020018]))).map State.fb =
      some [false, false, false, false, false, false, false, true, false] := by decide
/-- SET_PIXEL (0, 3) on 3 by 3 is clipped, though index 3 is in range (40_framebuffer.md R72) -/
theorem test_step_setPixel_clipped :
    (nextOf (step (drive (grid 3 3 0 (fbZero 9)) [call 0x20000038]))).map State.fb =
      some (List.replicate 9 false) := by decide
/-- ENCODE_INTO 9 with L = 10 is refused (43_frame_composer.md R117) -/
theorem test_step_encodeInto_small :
    (nextOf (step (drive dot [call 0x50000009]))).map State.resp = some ⟨2, 0⟩ := by decide
/-- ENCODE_INTO 10 with L = 10 starts the sequencer (43_frame_composer.md R120) -/
theorem test_step_encodeInto :
    (nextOf (step (drive dot [call 0x5000000A]))).map State.phase = some .sof := by decide
/-- ENCODE_TO_SINK before any CREATE is NotConfigured (60_exceptions.md R140) -/
theorem test_step_encodeToSink_unconfigured :
    (nextOf (step (drive State.reset [call 0x60000000]))).map State.resp = some ⟨4, 0⟩ := by decide
/-- ENCODE_TO_SINK starts the sequencer in stream mode (43_frame_composer.md R118, R120) -/
theorem test_step_encodeToSink :
    (nextOf (step (drive dot [call 0x60000000]))).map State.mode = some .stream := by decide
/-- the last byte of V8, `B` (0x42), and the response (0, 10) -/
theorem test_step_last_byte :
    (nextOf (step (dotEnds .stream [ready]))).map (fun t => (t.snk.getLast?, t.resp)) =
      some (some 0x42, ⟨0, 10⟩) := by decide

/-- the same byte into OB at offset 9, beside a byte of HOST at offset 10 = L (70_reset_and_hazards.md
R164 bars offsets 0 to 9 only) -/
theorem test_step_last_byte_ob :
    (nextOf (step (dotEnds .bufferFill [hostWrites 10]))).map
        (fun t => (t.ob.read 9, t.ob.read 10, t.ob.read 0)) =
      some (some 0x42, some 0xAA, some 0x02) := by decide
/-- an idle block holds its state while HOST writes OB (60_exceptions.md R148) -/
theorem test_step_host_writes :
    nextOf (step (drive dot [hostWrites 7])) =
      some { drive dot [] with ob := [(7, 0xAA)] } := by decide

/-! ## Witnesses: for each statement with hypotheses, an input that meets them -/

theorem witness_IllegalWordRaises_opcode_zero :
    (drive dot [call 0]).phase = .idle ∧ (drive dot [call 0]).portNow.rst = false ∧
      (drive dot [call 0]).portNow.cmd = some 0 ∧
      (0 : CmdWord).extractLsb' 28 4 = 0x0#4 := by decide
theorem witness_IllegalWordRaises_opcode_seven :
    (drive dot [call 0x70000000]).phase = .idle ∧
      (drive dot [call 0x70000000]).portNow.rst = false ∧
      (drive dot [call 0x70000000]).portNow.cmd = some 0x70000000 ∧
      0x7#4 ≤ (0x70000000 : CmdWord).extractLsb' 28 4 := by decide
theorem witness_IllegalWordRaises_setPixel :
    (drive dot [call 0x20000004]).phase = .idle ∧
      (drive dot [call 0x20000004]).portNow.rst = false ∧
      (drive dot [call 0x20000004]).portNow.cmd = some 0x20000004 ∧
      (0x20000004 : CmdWord).extractLsb' 28 4 = 0x2#4 ∧
      (0x20000004 : CmdWord).extractLsb' 0 3 ≠ 0#3 := by decide
theorem witness_IllegalWordRaises_no_operand :
    (drive dot [call 0x68000000]).phase = .idle ∧
      (drive dot [call 0x68000000]).portNow.rst = false ∧
      (drive dot [call 0x68000000]).portNow.cmd = some 0x68000000 ∧
      ((0x68000000 : CmdWord).extractLsb' 28 4 = 0x3#4 ∨
        (0x68000000 : CmdWord).extractLsb' 28 4 = 0x4#4 ∨
        (0x68000000 : CmdWord).extractLsb' 28 4 = 0x6#4) ∧
      (0x68000000 : CmdWord).extractLsb' 0 28 ≠ 0#28 := by decide
theorem witness_StepRunsTheDecodedCommand :
    (drive dot [call 0x30000000]).phase = .idle ∧
      (drive dot [call 0x30000000]).portNow.rst = false ∧
      (drive dot [call 0x30000000]).portNow.cmd = some 0x30000000 ∧
      decode 0x30000000 = .command .dimensions := by decide
theorem witness_FetchWordIsRunNext : decodeTableWord 32 0x5000000A = some (.encodeInto 10) := by decide
theorem witness_IdleBlockWaits :
    (drive dot [ready]).phase = .idle ∧ (drive dot [ready]).portNow.rst = false ∧
      (drive dot [ready]).portNow.cmd = none := by decide
theorem witness_BusyBlockIgnoresCommands : (dotStarts .stream []).phase ≠ .idle := by decide
theorem witness_ResetInputResets :
    (dotEnds .stream [⟨true, some 0x10000000, true, true, []⟩]).portNow.rst = true := by decide

theorem witness_CreateSucceeds_low :
    State.reset.cfg = false ∧ (0 : BitVec 8).toNat < 16 ∧ (1 : BitVec 10) ≠ 0 ∧
      (1 : BitVec 10) ≠ 0 := by decide
theorem witness_CreateSucceeds_high :
    State.reset.cfg = false ∧ (15 : BitVec 8).toNat < 16 ∧ (1023 : BitVec 10) ≠ 0 ∧
      (1023 : BitVec 10) ≠ 0 := by decide
theorem witness_CreateFaultsInOrder_already : dot.cfg = true := by decide
theorem witness_CreateFaultsInOrder_address :
    State.reset.cfg = false ∧ 16 ≤ (16 : BitVec 8).toNat := by decide
theorem witness_CreateFaultsInOrder_width :
    State.reset.cfg = false ∧ (15 : BitVec 8).toNat < 16 ∧
      ((0 : BitVec 10) = 0 ∨ (1 : BitVec 10) = 0) := by decide
theorem witness_CreateFaultsInOrder_height :
    State.reset.cfg = false ∧ (15 : BitVec 8).toNat < 16 ∧
      ((1 : BitVec 10) = 0 ∨ (0 : BitVec 10) = 0) := by decide
theorem witness_CreatedGridIsBlank :
    State.reset.cfg = false ∧ (15 : BitVec 8).toNat < 16 ∧ (3 : BitVec 10) ≠ 0 ∧
      (3 : BitVec 10) ≠ 0 := by decide

theorem witness_SetPixelWritesOnePixel :
    (drive four []).Inv ∧ (drive four []).cfg = true ∧ (1 : BitVec 12).toNat < (drive four []).w.toNat ∧
      (3 : BitVec 12).toNat < (drive four []).h.toNat := ⟨four_inv [], by decide⟩
theorem witness_SetPixelOutsideIsClipped_x :
    four.cfg = true ∧ (four.w.toNat ≤ (2 : BitVec 12).toNat ∨
      four.h.toNat ≤ (0 : BitVec 12).toNat) := by decide
theorem witness_SetPixelOutsideIsClipped_y :
    four.cfg = true ∧ (four.w.toNat ≤ (0 : BitVec 12).toNat ∨
      four.h.toNat ≤ (4 : BitVec 12).toNat) := by decide
theorem witness_NegativeCoordinatesAreClipped_low : (-2048 : Int) ≤ -2048 ∧ (-2048 : Int) < 0 := by decide
theorem witness_NegativeCoordinatesAreClipped_high : (-2048 : Int) ≤ -1 ∧ (-1 : Int) < 0 := by decide
theorem witness_NegativeCoordinatesAreClipped_x :
    dot.cfg = true ∧ (1024 ≤ (1024 : BitVec 12).toNat ∨ 1024 ≤ (0 : BitVec 12).toNat) := by decide
theorem witness_NegativeCoordinatesAreClipped_y :
    dot.cfg = true ∧ (1024 ≤ (0 : BitVec 12).toNat ∨ 1024 ≤ (1024 : BitVec 12).toNat) := by decide
theorem witness_SetPixelsOfDifferentPixelsCommute :
    ∃ t u t' u', (drive four []).Inv ∧ ((0, 3) : BitVec 12 × BitVec 12) ≠ (1, 0) ∧
      exec (.setPixel 0 3 false) (drive four []) = .next t ∧ exec (.setPixel 1 0 false) t = .next u ∧
      exec (.setPixel 1 0 false) (drive four []) = .next t' ∧
      exec (.setPixel 0 3 false) t' = .next u' :=
  ⟨_, _, _, _, four_inv [], by decide, rfl, rfl, rfl, rfl⟩
theorem witness_PixelIndexIsABijection :
    0 < four.surface.w.toNat ∧ 3 < four.surface.h.toNat ∧ 1 < four.surface.w.toNat ∧
      four.surface.pixelIndex 1 3 = 7 ∧ 7 < four.surface.npix := by decide
theorem witness_DimensionsReturnsBoth : dot.cfg = true := by decide
theorem witness_FrameSizeIsTheFramesLength : four.cfg = true := by decide
theorem witness_CommandsNeedAnInstance :
    State.reset.cfg = false ∧ ∀ w h a, Instr.frameSize ≠ .create w h a :=
  ⟨rfl, fun _ _ _ hi => Instr.noConfusion hi⟩

theorem witness_PackedByteHoldsEightPixels_pixel :
    7 < 8 ∧ 8 * 0 + 7 < (⟨3, 3, 0, fbZero 9⟩ : Surface).npix := by decide
theorem witness_PackedByteHoldsEightPixels_pad :
    1 < 8 ∧ ¬8 * 1 + 1 < (⟨3, 3, 0, fbZero 9⟩ : Surface).npix := by decide
theorem witness_ResolutionByteTruncates_both :
    (⟨255, 8, 0, []⟩ : Surface).ResFits ∧ (⟨255, 8, 0, []⟩ : Surface).MulEight := by
  unfold Surface.ResFits Surface.MulEight
  decide
theorem witness_ResolutionByteTruncates_pad :
    (⟨3, 3, 0, []⟩ : Surface).ResFits ∧ ¬(⟨3, 3, 0, []⟩ : Surface).MulEight := by
  unfold Surface.ResFits Surface.MulEight
  decide
theorem witness_FrameHasItsOffsets : 0 < dot.surface.payloadBytes := by decide
theorem witness_ControlBytesOnlyAtTheirOffsets_start : dot.surface.frame[0]? = some 0x02#8 := by decide
theorem witness_ControlBytesOnlyAtTheirOffsets_digit :
    dot.surface.frame[6]? = some 0x31#8 ∧ 6 ≠ 0 ∧ 6 ≠ 5 + 2 * dot.surface.payloadBytes := by decide
theorem witness_ControlBytesOnlyAtTheirOffsets_end : dot.surface.frame[7]? = some 0x03#8 := by decide

theorem witness_EncodeIntoIsAccepted :
    dot.cfg = true ∧ 2 * ((dot.w.toNat * dot.h.toNat + 7) / 8) + 8 ≤ (10 : BitVec 28).toNat := by decide
theorem witness_SmallBufferIsRefused :
    dot.cfg = true ∧ (9 : BitVec 28).toNat < 2 * ((dot.w.toNat * dot.h.toNat + 7) / 8) + 8 := by decide
theorem witness_EncodeToSinkIsAccepted : dot.cfg = true := by decide
theorem witness_SequencerEmitsFrameAtPos :
    (dotEnds .bufferFill []).Inv ∧ (dotEnds .bufferFill []).phase ≠ .idle :=
  ⟨dotEnds_inv _ _, by decide⟩
theorem witness_BufferStepWritesOneByte_first :
    (dotStarts .bufferFill [ready]).Inv ∧ (dotStarts .bufferFill [ready]).phase ≠ .idle ∧
      (dotStarts .bufferFill [ready]).mode = .bufferFill ∧
      (dotStarts .bufferFill [ready]).portNow.rst = false := ⟨dotStarts_inv _ _, by decide⟩
theorem witness_BufferStepWritesOneByte_last :
    (dotEnds .bufferFill [ready]).Inv ∧ (dotEnds .bufferFill [ready]).phase ≠ .idle ∧
      (dotEnds .bufferFill [ready]).mode = .bufferFill ∧
      (dotEnds .bufferFill [ready]).portNow.rst = false := ⟨dotEnds_inv _ _, by decide⟩
theorem witness_StreamStepFollowsTheSink_accept :
    (dotEnds .stream [ready]).Inv ∧ (dotEnds .stream [ready]).phase ≠ .idle ∧
      (dotEnds .stream [ready]).mode = .stream ∧ (dotEnds .stream [ready]).portNow.rst = false ∧
      (dotEnds .stream [ready]).portNow.snkErr = false ∧
      (dotEnds .stream [ready]).portNow.snkReady = true := ⟨dotEnds_inv _ _, by decide⟩
theorem witness_StreamStepFollowsTheSink_error :
    (dotStarts .stream [sinkError]).Inv ∧ (dotStarts .stream [sinkError]).phase ≠ .idle ∧
      (dotStarts .stream [sinkError]).mode = .stream ∧
      (dotStarts .stream [sinkError]).portNow.rst = false ∧
      (dotStarts .stream [sinkError]).portNow.snkErr = true := ⟨dotStarts_inv _ _, by decide⟩
theorem witness_StreamStepFollowsTheSink_wait :
    (dotStarts .stream [waits]).Inv ∧ (dotStarts .stream [waits]).phase ≠ .idle ∧
      (dotStarts .stream [waits]).mode = .stream ∧
      (dotStarts .stream [waits]).portNow.rst = false ∧
      (dotStarts .stream [waits]).portNow.snkErr = false ∧
      (dotStarts .stream [waits]).portNow.snkReady = false := ⟨dotStarts_inv _ _, by decide⟩

/-! The runs: an encode of `dot`, L = 10, from its acceptance. -/

/-- HOST presents `c`; then SINK is ready at each of `n` steps. -/
def callThen (c : CmdWord) (n : Nat) : List PortInputs := call c :: List.replicate n ready

/-- HOST writes offset 10 = L while the encode is in progress, and keeps off the offsets below. -/
theorem witness_EncodeIntoWritesTheFrame :
    let s := drive dot (callThen (encode (.encodeInto 10)) 9 ++ [hostWrites 10])
    s.Inv ∧ s.phase = .idle ∧ s.cfg = true ∧ s.surface.frame.length ≤ (10 : BitVec 28).toNat ∧
      s.PresentsAt 0 (encode (.encodeInto 10)) ∧ s.NoResetFor (s.surface.frame.length + 1) ∧
      s.HostKeepsOff s.surface.frame.length s.surface.frame.length := by
  refine ⟨dot_inv _, rfl, rfl, by decide, rfl, ?_, hostKeepsOff_of_all (by decide)⟩
  unfold State.NoResetFor
  decide

/-- SINK waits once before it takes the first byte and once before the last. -/
theorem witness_EncodeToSinkSendsTheFrame :
    let s := drive dot (call (encode .encodeToSink) :: waits :: List.replicate 9 ready ++ [waits, ready])
    s.Inv ∧ s.phase = .idle ∧ s.cfg = true ∧ s.PresentsAt 0 (encode .encodeToSink) ∧
      s.NoResetFor 13 ∧ s.NoSinkErrorFor 12 ∧ s.acceptsIn 12 = s.surface.frame.length ∧
      sinkAnswer (s.portAt 12) = .accept := by
  refine ⟨dot_inv _, ?_⟩
  unfold State.PresentsAt State.NoResetFor State.NoSinkErrorFor
  decide

/-- SINK fails on the first byte. -/
theorem witness_SinkErrorLeavesAPrefix_first :
    let s := drive dot [call (encode .encodeToSink), sinkError]
    s.Inv ∧ s.phase = .idle ∧ s.cfg = true ∧ s.PresentsAt 0 (encode .encodeToSink) ∧
      s.NoResetFor 2 ∧ s.NoSinkErrorFor 0 ∧ s.acceptsIn 0 < s.surface.frame.length ∧
      sinkAnswer (s.portAt 1) = .error := by
  refine ⟨dot_inv _, ?_⟩
  unfold State.PresentsAt State.NoResetFor State.NoSinkErrorFor
  decide

/-- SINK fails on the last byte. -/
theorem witness_SinkErrorLeavesAPrefix_last :
    let s := drive dot (callThen (encode .encodeToSink) 9 ++ [sinkError])
    s.Inv ∧ s.phase = .idle ∧ s.cfg = true ∧ s.PresentsAt 0 (encode .encodeToSink) ∧
      s.NoResetFor 11 ∧ s.NoSinkErrorFor 9 ∧ s.acceptsIn 9 < s.surface.frame.length ∧
      sinkAnswer (s.portAt 10) = .error := by
  refine ⟨dot_inv _, ?_⟩
  unfold State.PresentsAt State.NoResetFor State.NoSinkErrorFor
  decide

theorem witness_UnfinishedStreamStaysBusy :
    let s := drive dot (callThen (encode .encodeToSink) 9 ++ [waits])
    s.Inv ∧ s.phase = .idle ∧ s.cfg = true ∧ s.PresentsAt 0 (encode .encodeToSink) ∧
      s.NoResetFor 11 ∧ s.NoSinkErrorFor 10 ∧ s.acceptsIn 10 < s.surface.frame.length := by
  refine ⟨dot_inv _, ?_⟩
  unfold State.PresentsAt State.NoResetFor State.NoSinkErrorFor
  decide

theorem witness_BufferAndStreamAgree :
    let s := drive dot (callThen (encode (.encodeInto 10)) 10 ++ callThen (encode .encodeToSink) 10)
    s.Inv ∧ s.phase = .idle ∧ s.cfg = true ∧ s.surface.frame.length ≤ (10 : BitVec 28).toNat ∧
      s.PresentsAt 0 (encode (.encodeInto 10)) ∧
      s.PresentsAt (s.surface.frame.length + 1) (encode .encodeToSink) ∧
      s.NoResetFor (2 * s.surface.frame.length + 2) ∧
      (∀ j, s.surface.frame.length + 2 ≤ j → j < 2 * s.surface.frame.length + 2 →
        sinkAnswer (s.portAt j) = .accept) ∧
      s.HostKeepsOff s.surface.frame.length s.surface.frame.length ∧
      s.HostKeepsOff s.surface.frame.length (2 * s.surface.frame.length + 1) := by
  refine ⟨dot_inv _, ?_, ?_, ?_, ?_, ?_, ?_, ?_, hostKeepsOff_of_all (by decide),
    hostKeepsOff_of_all (by decide)⟩
  all_goals try unfold State.PresentsAt
  all_goals try unfold State.NoResetFor
  all_goals decide

theorem witness_EncodingTwiceSendsTheSameFrame :
    let s := drive dot (callThen (encode .encodeToSink) 10 ++ callThen (encode .encodeToSink) 10)
    s.Inv ∧ s.phase = .idle ∧ s.cfg = true ∧ s.PresentsAt 0 (encode .encodeToSink) ∧
      s.PresentsAt (s.surface.frame.length + 1) (encode .encodeToSink) ∧
      s.NoResetFor (2 * s.surface.frame.length + 2) ∧
      ∀ j, 1 ≤ j → j < 2 * s.surface.frame.length + 2 → j ≠ s.surface.frame.length + 1 →
        sinkAnswer (s.portAt j) = .accept := by
  refine ⟨dot_inv _, ?_, ?_, ?_, ?_, ?_, ?_⟩
  all_goals try unfold State.PresentsAt
  all_goals try unfold State.NoResetFor
  all_goals decide

theorem witness_OutputPortsCarryTheFrame_reset :
    (dotEnds .stream []).Inv ∧ (⟨true, none, true, false, []⟩ : PortInputs).rst = true :=
  ⟨dotEnds_inv _ _, rfl⟩
theorem witness_OutputPortsCarryTheFrame_idle :
    (drive dot []).Inv ∧ ready.rst = false ∧ (drive dot []).phase = .idle := ⟨dot_inv _, by decide⟩
theorem witness_OutputPortsCarryTheFrame_stream :
    (dotEnds .stream []).Inv ∧ ready.rst = false ∧ (dotEnds .stream []).phase ≠ .idle ∧
      (dotEnds .stream []).mode = .stream := ⟨dotEnds_inv _ _, by decide⟩
theorem witness_OutputPortsCarryTheFrame_buffer :
    (dotStarts .bufferFill []).Inv ∧ ready.rst = false ∧ (dotStarts .bufferFill []).phase ≠ .idle ∧
      (dotStarts .bufferFill []).mode = .bufferFill := ⟨dotStarts_inv _ _, by decide⟩

/-! The whole machine. -/

theorem witness_StepKeepsTheInvariant_idle :
    ∃ t, (drive dot [call 0x60000000]).Inv ∧ step (drive dot [call 0x60000000]) = .next t :=
  ⟨_, dot_inv _, rfl⟩
theorem witness_StepKeepsTheInvariant_busy :
    (dotEnds .bufferFill [ready]).Inv ∧ ∃ t, step (dotEnds .bufferFill [ready]) = .next t :=
  ⟨dotEnds_inv _ _, next_of_isSome (by decide)⟩
/-- The clause on OB: nine bytes of V8 stand in OB, and HOST writes offset 10 = L. -/
theorem witness_StepKeepsTheInvariant_ob :
    (dotEnds .bufferFill [hostWrites 10]).Inv ∧
      (∃ t, step (dotEnds .bufferFill [hostWrites 10]) = .next t) ∧
      (dotEnds .bufferFill [hostWrites 10]).ObHoldsFrameSoFar ∧
      KeepsOff (dotEnds .bufferFill [hostWrites 10]).portNow
        (dotEnds .bufferFill [hostWrites 10]).surface.frame.length := by
  refine ⟨dotEnds_inv _ _, next_of_isSome (by decide), ?_, ?_⟩
  · unfold State.ObHoldsFrameSoFar; decide
  · exact keepsOff_of_all (by decide)
theorem witness_InvariantStatesGoOn : (dotEnds .bufferFill [ready]).Inv := dotEnds_inv _ _
theorem witness_ConfigurationIsFixedUntilReset_configured :
    ∃ t, step (drive dot [call 0x20000000]) = .next t ∧
      (drive dot [call 0x20000000]).portNow.rst = false ∧
      (drive dot [call 0x20000000]).cfg = true := ⟨_, rfl, by decide⟩
theorem witness_ConfigurationIsFixedUntilReset_create :
    ∃ t, step (drive State.reset [call 0x100C0205]) = .next t ∧
      (drive State.reset [call 0x100C0205]).portNow.rst = false ∧
      (t.cfg, t.w, t.h, t.addr) ≠ (false, 0, 0, 0) := ⟨_, rfl, by decide⟩
theorem witness_OnlyCreateAndSetPixelChangeFb :
    ∃ t, step (drive dot [call 0x20000000]) = .next t ∧
      (drive dot [call 0x20000000]).portNow.rst = false ∧ t.fb ≠ (drive dot [call 0x20000000]).fb :=
  ⟨_, rfl, by decide⟩
theorem witness_FaultBitsAreSticky :
    ∃ t, step (drive dot [call 0x10000000]) = .next t ∧
      (drive dot [call 0x10000000]).portNow.rst = false ∧ t.faults.getLsbD 5 = true ∧
      (drive dot [call 0x10000000]).faults.getLsbD 5 = false := ⟨_, rfl, by decide⟩
theorem witness_NoStepReadsFaults : ∃ t, step (drive dot [call 0x60000000]) = .next t := ⟨_, rfl⟩
theorem witness_NoStepReadsOb : ∃ t, step (dotEnds .bufferFill [ready]) = .next t :=
  next_of_isSome (by decide)
theorem witness_HostWritesLandAtTheirOffsets_other :
    ∀ c ∈ [((6 : BitVec 28), (0xAA : Byte)), (8, 0xBB)], c.1 ≠ 7 := by simp
theorem witness_HostWritesLandAtTheirOffsets_last :
    [((7 : BitVec 28), (0xAA : Byte)), (7, 0xBB), (8, 0xCC)] = [(7, 0xAA)] ++ (7, 0xBB) :: [(8, 0xCC)] ∧
      ∀ c ∈ [((8 : BitVec 28), (0xCC : Byte))], c.1 ≠ 7 := by simp
theorem witness_HostWritesChangeOnlyOb :
    ∃ t, step { dotEnds .bufferFill [] with inputs := ready :: [] } = .next t :=
  next_of_isSome (by decide)
theorem witness_OneResponsePerCommand_accepts :
    ∃ t, step (drive dot [call 0x30000000]) = .next t ∧
      (drive dot [call 0x30000000]).portNow.rst = false ∧
      (drive dot [call 0x30000000]).portNow.cmd ≠ none := ⟨_, rfl, by decide⟩
theorem witness_OneResponsePerCommand_busy :
    ∃ t, step (dotEnds .stream [ready]) = .next t ∧ (dotEnds .stream [ready]).portNow.rst = false ∧
      (dotEnds .stream [ready]).phase ≠ .idle := ⟨_, rfl, by decide⟩
theorem witness_OneResponsePerCommand_waits :
    ∃ t, step (drive dot [ready]) = .next t ∧ (drive dot [ready]).portNow.rst = false ∧
      (drive dot [ready]).phase = .idle ∧ (drive dot [ready]).portNow.cmd = none :=
  ⟨_, rfl, by decide⟩

end Sys2Proof.Tests
end

section
/-! PROOFS. The map of 20_memory.md R32 between the pixels of the grid and the indices of FB. An index
is a number in base H: the quotient by H is the column x and the remainder is y. -/

namespace Sys2Proof.Machine

namespace Surface

variable (S : Surface)

theorem pixelIndex_eq (x y : Nat) : S.pixelIndex x y = x * S.h.toNat + y := rfl

theorem pixelIndex_div_h (x : Nat) {y : Nat} (hy : y < S.h.toNat) :
    S.pixelIndex x y / S.h.toNat = x := by
  have hpos : 0 < S.h.toNat := Nat.zero_lt_of_lt hy
  rw [pixelIndex_eq, Nat.add_comm, Nat.add_mul_div_right _ _ hpos, Nat.div_eq_of_lt hy, Nat.zero_add]

theorem pixelIndex_mod_h (x : Nat) {y : Nat} (hy : y < S.h.toNat) :
    S.pixelIndex x y % S.h.toNat = y := by
  rw [pixelIndex_eq, Nat.mul_add_mod_self_right, Nat.mod_eq_of_lt hy]

/-- Already `y, y' < H` makes the index one to one: x need not be in the grid (20_memory.md R32). -/
theorem pixelIndex_injective {x y x' y' : Nat} (hy : y < S.h.toNat) (hy' : y' < S.h.toNat)
    (h : S.pixelIndex x y = S.pixelIndex x' y') : x = x' ∧ y = y' := by
  constructor
  · rw [← S.pixelIndex_div_h x hy, h, S.pixelIndex_div_h x' hy']
  · rw [← S.pixelIndex_mod_h x hy, h, S.pixelIndex_mod_h x' hy']

theorem pixelIndex_div_mod (i : Nat) : S.pixelIndex (i / S.h.toNat) (i % S.h.toNat) = i :=
  Nat.div_add_mod' i S.h.toNat

theorem div_h_lt_w {i : Nat} (hi : i < S.npix) : i / S.h.toNat < S.w.toNat :=
  Nat.div_lt_of_lt_mul (Nat.mul_comm S.w.toNat S.h.toNat ▸ hi)

theorem mod_h_lt_h {i : Nat} (hi : i < S.npix) : i % S.h.toNat < S.h.toNat :=
  Nat.mod_lt i (Nat.pos_of_mul_pos_left (Nat.zero_lt_of_lt hi))

end Surface

/-- Settles O19: the inverse of the index is division with remainder by H. -/
theorem pixelIndexIsABijection : Obligations.PixelIndexIsABijection := by
  intro S
  refine ⟨S.pixelIndex_eq, fun _ _ => S.pixelIndex_lt, ?injective, ?surjective⟩
  case injective =>
    intro x y x' y' _ hy _ hy'
    exact S.pixelIndex_injective hy hy'
  case surjective =>
    intro i hi
    exact ⟨i / S.h.toNat, i % S.h.toNat, S.div_h_lt_w hi, S.mod_h_lt_h hi, S.pixelIndex_div_mod i⟩

end Sys2Proof.Machine
end

section
/-! PROOFS. The rows of the opcode table (30_encoding.md R60). A row's mask holds the four bits of the opcode
and the row's reserved bits, which are the lowest of the word; its match is the opcode with every other bit 0. So
`cmd & mask = match` says that the word has the row's opcode and that its reserved bits are 0, which is
what the decoder tests. -/

namespace Sys2Proof

/-- How many of the low bits of a command's word are reserved (30_encoding.md R56 to R59). -/
def Instr.reservedBits : Instr → Nat
  | .create _ _ _ => 0
  | .setPixel _ _ _ => 3
  | .dimensions => 28
  | .frameSize => 28
  | .encodeInto _ => 0
  | .encodeToSink => 28

theorem Instr.reservedBits_le (i : Instr) : i.reservedBits ≤ 28 := by
  cases i <;> simp [Instr.reservedBits]

theorem rowMask_eq (i : Instr) :
    rowMask i = 0xF0000000 ||| (BitVec.allOnes i.reservedBits).setWidth 32 := by
  cases i <;> simp [rowMask, Instr.reservedBits]

theorem rowMatch_eq (i : Instr) : rowMatch i = (opField (encode i)).setWidth 32 <<< 28 := by
  cases i <;> simp [rowMatch, opField_encode]

/-- Masking with `r` low ones keeps the `r` low bits. -/
theorem and_lowMask (cmd : CmdWord) (r : Nat) :
    cmd &&& (BitVec.allOnes r).setWidth 32 = (cmd.extractLsb' 0 r).setWidth 32 := by
  apply BitVec.eq_of_getLsbD_eq
  intro i hi
  simp [hi, Bool.and_comm]

/-- An opcode over `r` low bits is a lone opcode exactly when the opcodes agree and the low bits are 0. -/
theorem opcode_or_low_eq_iff {r : Nat} (hr : r ≤ 28) (op n : BitVec 4) (low : BitVec r) :
    op.setWidth 32 <<< 28 ||| low.setWidth 32 = n.setWidth 32 <<< 28 ↔ op = n ∧ low = 0 := by
  constructor
  · intro h
    have bit (i : Nat) := congrArg (BitVec.getLsbD · i) h
    constructor
    · apply BitVec.eq_of_getLsbD_eq
      intro i hi
      have hlow : low.getLsbD (28 + i) = false := BitVec.getLsbD_of_ge _ _ (by omega)
      simpa [hlow, show 28 + i < 32 by omega] using bit (28 + i)
    · apply BitVec.eq_of_getLsbD_eq
      intro i hi
      simpa [show i < 28 by omega, show i < 32 by omega] using bit i
  · rintro ⟨rfl, rfl⟩
    simp

/-- `cmd & mask = match` in terms of the word's fields (30_encoding.md R60). -/
theorem and_rowMask_eq_rowMatch_iff (cmd : CmdWord) (i : Instr) :
    cmd &&& rowMask i = rowMatch i ↔
      opField cmd = opField (encode i) ∧ cmd.extractLsb' 0 i.reservedBits = 0 := by
  rw [rowMask_eq, rowMatch_eq, BitVec.and_or_distrib_left, and_opMask, and_lowMask,
    opcode_or_low_eq_iff i.reservedBits_le]

/-- A word that decodes to a command is a word of the command's row (30_encoding.md R60, R63). -/
theorem and_rowMask_of_decode {cmd : CmdWord} {i : Instr} (h : decode cmd = .command i) :
    cmd &&& rowMask i = rowMatch i := by
  rw [and_rowMask_eq_rowMatch_iff, opField_encode]
  rcases decode_command_cases h with ⟨hop, rfl⟩ | ⟨hop, hres, rfl⟩ | ⟨hop, hres, rfl⟩ |
    ⟨hop, hres, rfl⟩ | ⟨hop, rfl⟩ | ⟨hop, hres, rfl⟩
  · exact ⟨hop, BitVec.of_length_zero⟩
  · exact ⟨hop, hres⟩
  · exact ⟨hop, hres⟩
  · exact ⟨hop, hres⟩
  · exact ⟨hop, BitVec.of_length_zero⟩
  · exact ⟨hop, hres⟩

/-! What the decoder answers for each opcode (30_encoding.md R63). -/

section Rows

variable {cmd : CmdWord}

theorem decode_of_op_create (hop : opField cmd = 1) :
    decode cmd =
      .command (.create (cmd.extractLsb' 18 10) (cmd.extractLsb' 8 10) (cmd.extractLsb' 0 8)) := by
  simp [decode, hop]

theorem decode_of_op_setPixel (hop : opField cmd = 2) (hres : cmd.extractLsb' 0 3 = 0) :
    decode cmd =
      .command (.setPixel (cmd.extractLsb' 16 12) (cmd.extractLsb' 4 12) (cmd.getLsbD 3)) := by
  simp [decode, hop, hres]

theorem decode_of_op_dimensions (hop : opField cmd = 3) (hres : cmd.extractLsb' 0 28 = 0) :
    decode cmd = .command .dimensions := by
  simp [decode, hop, hres]

theorem decode_of_op_frameSize (hop : opField cmd = 4) (hres : cmd.extractLsb' 0 28 = 0) :
    decode cmd = .command .frameSize := by
  simp [decode, hop, hres]

theorem decode_of_op_encodeInto (hop : opField cmd = 5) :
    decode cmd = .command (.encodeInto (cmd.extractLsb' 0 28)) := by
  simp [decode, hop]

theorem decode_of_op_encodeToSink (hop : opField cmd = 6) (hres : cmd.extractLsb' 0 28 = 0) :
    decode cmd = .command .encodeToSink := by
  simp [decode, hop, hres]

end Rows

/-- Settles O3: a decoded word is a word of its command's row, and a word of a row has the fields for which
the decoder answers a command of the row. -/
theorem decodeFollowsMatchAndMask : Obligations.DecodeFollowsMatchAndMask := by
  intro cmd
  have fields (i : Instr) := (and_rowMask_eq_rowMatch_iff cmd i).1
  refine ⟨⟨fun ⟨_, _, _, hd⟩ => and_rowMask_of_decode hd, fun hm => ?create⟩,
    ⟨fun ⟨_, _, _, hd⟩ => and_rowMask_of_decode hd, fun hm => ?setPixel⟩,
    ⟨and_rowMask_of_decode, fun hm => ?dimensions⟩,
    ⟨and_rowMask_of_decode, fun hm => ?frameSize⟩,
    ⟨fun ⟨_, hd⟩ => and_rowMask_of_decode hd, fun hm => ?encodeInto⟩,
    ⟨and_rowMask_of_decode, fun hm => ?encodeToSink⟩⟩
  case create =>
    obtain ⟨hop, -⟩ := fields (.create 0 0 0) hm
    exact ⟨_, _, _, decode_of_op_create hop⟩
  case setPixel =>
    obtain ⟨hop, hres⟩ := fields (.setPixel 0 0 false) hm
    exact ⟨_, _, _, decode_of_op_setPixel hop hres⟩
  case dimensions =>
    obtain ⟨hop, hres⟩ := fields .dimensions hm
    exact decode_of_op_dimensions hop hres
  case frameSize =>
    obtain ⟨hop, hres⟩ := fields .frameSize hm
    exact decode_of_op_frameSize hop hres
  case encodeInto =>
    obtain ⟨hop, -⟩ := fields (.encodeInto 0) hm
    exact ⟨_, decode_of_op_encodeInto hop⟩
  case encodeToSink =>
    obtain ⟨hop, hres⟩ := fields .encodeToSink hm
    exact decode_of_op_encodeToSink hop hres

end Sys2Proof
end

section
/-! PROOFS. Where the control bytes of the frame stand (43_frame_composer.md R113): everything but the start byte
and the end byte is a hex digit, and no hex digit is a control byte (41_hex_encoder.md R92). -/

namespace Sys2Proof.Machine

/-- The hex expansion of a byte holds digits only (41_hex_encoder.md R91). -/
theorem exists_digit_of_mem_hex {r b : Byte} (h : b ∈ hex r) : ∃ n : BitVec 4, b = digit n := by
  rcases List.mem_pair.1 h with hhi | hlo
  · exact ⟨_, hhi⟩
  · exact ⟨_, hlo⟩

theorem exists_digit_of_mem_flatMap_hex {l : List Byte} {b : Byte} (h : b ∈ l.flatMap hex) :
    ∃ n : BitVec 4, b = digit n := by
  obtain ⟨r, -, hb⟩ := List.mem_flatMap.1 h
  exact exists_digit_of_mem_hex hb

/-- No hex digit is a control byte (41_hex_encoder.md R92). -/
theorem digit_ne_of_lt {c : Byte} (hc : c.toNat < 0x30) (n : BitVec 4) : digit n ≠ c := by
  rintro rfl
  have := digit_range n
  omega

/-- What a wire byte can be, by its offset: the four parts of `Frame(S)` (43_frame_composer.md R113). -/
theorem Surface.frame_getElem?_cases {S : Surface} {o : Nat} {b : Byte} (h : S.frame[o]? = some b) :
    (o = 0 ∧ b = 0x02#8) ∨ (o = 5 + 2 * S.payloadBytes ∧ b = 0x03#8) ∨
      (o ≠ 0 ∧ o ≠ 5 + 2 * S.payloadBytes ∧ ∃ n : BitVec 4, b = digit n) := by
  have hframe : S.frame =
      Config.sof :: (S.body.flatMap hex ++ Config.eof :: hex S.checksum) := by
    simp [Surface.frame]
  have hlen : (S.body.flatMap hex).length = 4 + 2 * S.payloadBytes := by
    rw [flatMap_hex_length, S.body_length]; omega
  rw [hframe] at h
  cases o with
  | zero => exact .inl ⟨rfl, (Option.some.inj h).symm⟩
  | succ o =>
    rw [List.getElem?_cons_succ] at h
    rcases Nat.lt_trichotomy o (S.body.flatMap hex).length with hbody | hend | hcksum
    · rw [List.getElem?_append_left hbody] at h
      exact .inr (.inr ⟨by omega, by omega,
        exists_digit_of_mem_flatMap_hex (List.mem_of_getElem? h)⟩)
    · rw [hend, List.getElem?_append_right le_rfl, Nat.sub_self] at h
      exact .inr (.inl ⟨by omega, (Option.some.inj h).symm⟩)
    · obtain ⟨j, rfl⟩ := Nat.exists_eq_add_of_lt hcksum
      rw [List.getElem?_append_right (by omega), Nat.add_assoc, Nat.add_sub_cancel_left,
        List.getElem?_cons_succ] at h
      exact .inr (.inr ⟨by omega, by omega, exists_digit_of_mem_hex (List.mem_of_getElem? h)⟩)

/-- Settles O30, by the part of the frame that the offset is in. -/
theorem controlBytesOnlyAtTheirOffsets : Obligations.ControlBytesOnlyAtTheirOffsets := by
  intro S o b hb
  rcases S.frame_getElem?_cases hb with ⟨rfl, rfl⟩ | ⟨rfl, rfl⟩ | ⟨hstart, hend, n, rfl⟩
  · exact ⟨iff_of_true rfl rfl, iff_of_false (by decide) (by omega), fun h => absurd rfl h⟩
  · exact ⟨iff_of_false (by decide) (by omega), iff_of_true rfl rfl, fun _ h => absurd rfl h⟩
  · exact ⟨iff_of_false (digit_ne_of_lt (by decide) n) hstart,
      iff_of_false (digit_ne_of_lt (by decide) n) hend, fun _ _ => ⟨n, rfl⟩⟩

end Sys2Proof.Machine
end

section
/-! PROOFS. The clip of SET_PIXEL for field values of 1024 and more (40_framebuffer.md R73): W and H are 10-bit
fields, so such a coordinate is past the grid of every configuration. A negative coordinate's two's-complement
field is such a value. -/

namespace Sys2Proof.Machine

/-- A clipped SET_PIXEL answers OK and does nothing else (40_framebuffer.md R72). -/
theorem exec_setPixel_of_clips {s : State} {x y : BitVec 12} (hcfg : s.cfg = true)
    (hclips : s.surface.clips x y = true) (v : Bool) :
    exec (.setPixel x y v) s = .next (s.respond 0 0) := by
  simp only [exec, execSetPixel, hcfg, hclips, if_true]

theorem Surface.clips_of_1024_le (S : Surface) {x y : BitVec 12}
    (h : 1024 ≤ x.toNat ∨ 1024 ≤ y.toNat) : S.clips x y = true := by
  have hw : S.w.toNat < 1024 := S.w.isLt
  have hh : S.h.toNat < 1024 := S.h.isLt
  rw [S.clips_iff]
  omega

theorem coordField_toNat_of_neg {c : Int} (hlow : -2048 ≤ c) (hneg : c < 0) :
    ((coordField c).toNat : Int) = 4096 + c := by
  rw [coordField, BitVec.toNat_ofInt]
  omega

/-- Settles O17: the field value of a negative coordinate, and the clip by the widths of W and H. -/
theorem negativeCoordinatesAreClipped : Obligations.NegativeCoordinatesAreClipped := by
  refine ⟨fun c hlow hneg => ?field, fun s x y v hcfg hfar => ?clip⟩
  case field =>
    have hfield := coordField_toNat_of_neg hlow hneg
    exact ⟨hfield, by omega⟩
  case clip => exact exec_setPixel_of_clips hcfg (s.surface.clips_of_1024_le hfar) v

end Sys2Proof.Machine
end

section
/-! PROOFS. The bits of a packed byte (40_framebuffer.md R77, R78). The spec gives the byte as the sum of its bits
times powers of two; that sum is the library's `Nat.ofBits`, whose bits are known. -/

namespace Sys2Proof.Machine

theorem sum_range_mul_two_pow (n : Nat) (f : Nat → Bool) :
    ((List.range n).map fun j => (f j).toNat * 2 ^ j).sum = Nat.ofBits fun i : Fin n => f i := by
  induction n generalizing f with
  | zero => rfl
  | succ n ih =>
    have htail : ((List.range n).map fun j => (f (j + 1)).toNat * 2 ^ (j + 1)).sum =
        2 * ((List.range n).map fun j => (f (j + 1)).toNat * 2 ^ j).sum := by
      rw [← List.sum_map_mul_left]
      simp only [Nat.pow_succ, Nat.mul_comm, Nat.mul_left_comm]
    rw [Nat.ofBits_succ, List.range_succ_eq_map, List.map_cons, List.sum_cons, List.map_map]
    simp only [Function.comp_def, htail, ih, Nat.pow_zero, Nat.mul_one, Nat.add_comm]
    rfl

theorem Surface.packedByte_eq_ofBits (S : Surface) (k : Nat) :
    S.packedByte k = BitVec.ofNat 8 (Nat.ofBits fun j : Fin 8 => S.packedBit k j) :=
  congrArg (BitVec.ofNat 8) (sum_range_mul_two_pow 8 (S.packedBit k))

theorem Surface.packedByte_getLsbD (S : Surface) (k : Nat) {j : Nat} (hj : j < 8) :
    (S.packedByte k).getLsbD j = S.packedBit k j := by
  rw [packedByte_eq_ofBits, BitVec.getLsbD_ofNat, Nat.testBit_ofBits_lt _ _ hj, decide_eq_true hj,
    Bool.true_and]

/-- Settles O24: `packedBit` is the pixel or the pad bit. -/
theorem packedByteHoldsEightPixels : Obligations.PackedByteHoldsEightPixels :=
  fun S k _ hj => S.packedByte_getLsbD k hj

end Sys2Proof.Machine
end

section
/-! PROOFS. Who writes the configuration (40_framebuffer.md R71): CFG, W, H, ADDR and the length of FB. Out of
reset a step keeps all of it or is the acceptance of a CREATE on an unconfigured block. -/

namespace Sys2Proof.Machine

/-- `t` has the configuration of `s`: what R71 says does not change (40_framebuffer.md R71). -/
structure State.KeepsConfig (s t : State) : Prop where
  cfg : t.cfg = s.cfg
  w : t.w = s.w
  h : t.h = s.h
  addr : t.addr = s.addr
  fb_length : t.fb.length = s.fb.length

/-- `t` holds the operands of a CREATE that `s`, unconfigured, has run (40_framebuffer.md R70). -/
def State.ConfiguredBy (s : State) (width height : BitVec 10) (address : BitVec 8) (t : State) : Prop :=
  s.cfg = false ∧ t.cfg = true ∧ t.w = width ∧ t.h = height ∧ t.addr = addressLow address

namespace State.KeepsConfig

variable (s : State)

theorem refl : s.KeepsConfig s := ⟨rfl, rfl, rfl, rfl, rfl⟩

theorem trans {s t u : State} (h : s.KeepsConfig t) (h' : t.KeepsConfig u) : s.KeepsConfig u :=
  ⟨h'.cfg.trans h.cfg, h'.w.trans h.w, h'.h.trans h.h, h'.addr.trans h.addr,
    h'.fb_length.trans h.fb_length⟩

theorem raise (f : EncFault) : s.KeepsConfig (s.raise f) := ⟨rfl, rfl, rfl, rfl, rfl⟩

theorem respond (status : BitVec 4) (value : BitVec 32) : s.KeepsConfig (s.respond status value) :=
  ⟨rfl, rfl, rfl, rfl, rfl⟩

theorem putPixel (x y : BitVec 12) (v : Bool) : s.KeepsConfig (s.putPixel x y v) :=
  ⟨rfl, rfl, rfl, rfl, fbWrite_length _ _ _⟩

theorem startBufferFill (cap : BitVec 28) : s.KeepsConfig (s.startBufferFill cap) :=
  ⟨rfl, rfl, rfl, rfl, rfl⟩

theorem startStream : s.KeepsConfig s.startStream := ⟨rfl, rfl, rfl, rfl, rfl⟩

theorem obPut (b : Byte) : s.KeepsConfig (s.obPut b) := ⟨rfl, rfl, rfl, rfl, rfl⟩

theorem snkPut (b : Byte) : s.KeepsConfig (s.snkPut b) := ⟨rfl, rfl, rfl, rfl, rfl⟩

theorem seqAdvance : s.KeepsConfig s.seqAdvance :=
  ⟨s.seqAdvance_cfg, s.seqAdvance_w, s.seqAdvance_h, s.seqAdvance_addr,
    congrArg List.length s.seqAdvance_fb⟩

end State.KeepsConfig

/-- A command keeps the configuration, or it is the CREATE that makes it. -/
theorem exec_keepsConfig_or_create {i : Instr} {s t : State} (h : exec i s = .next t) :
    s.KeepsConfig t ∨ ∃ width height address,
      i = .create width height address ∧ s.ConfiguredBy width height address t := by
  rcases exec_cases h with ⟨f, rfl⟩ | ⟨width, height, address, rfl, hcfg, -, -, -, rfl⟩ |
    ⟨x, y, v, -, -, ⟨-, rfl⟩ | ⟨-, rfl⟩⟩ | ⟨-, -, rfl⟩ | ⟨-, -, rfl⟩ | ⟨cap, -, -, -, rfl⟩ | ⟨-, -, rfl⟩
  case inr.inl => exact .inr ⟨width, height, address, rfl, hcfg, rfl, rfl, rfl, rfl⟩
  all_goals left
  · exact .raise s f
  · exact .respond s 0 0
  · exact (State.KeepsConfig.putPixel s x y v).trans (.respond _ 0 0)
  · exact .respond s 0 _
  · exact .respond s 0 _
  · exact .startBufferFill s cap
  · exact .startStream s

/-- A busy block's step keeps the configuration (43_frame_composer.md R127, R128). -/
theorem seqStep_keepsConfig {p : PortInputs} {s t : State} (h : seqStep p s = .next t) :
    s.KeepsConfig t := by
  rcases seqStep_cases h with ⟨-, -, rfl⟩ | ⟨-, -, rfl⟩ | ⟨-, -, rfl⟩ | ⟨-, -, rfl⟩
  · exact (State.KeepsConfig.obPut s _).trans (.seqAdvance _)
  · exact (State.KeepsConfig.snkPut s _).trans (.seqAdvance _)
  · exact .raise s _
  · exact .refl t

theorem cycle_keepsConfig_or_create {p : PortInputs} {s t : State} (hrst : p.rst = false)
    (h : cycle p s = .next t) :
    s.KeepsConfig t ∨ ∃ cmd width height address, p.cmd = some cmd ∧
      decode cmd = .command (.create width height address) ∧
      s.ConfiguredBy width height address t := by
  rcases cycle_cases h with ⟨hreset, -⟩ | ⟨-, -, -, rfl⟩ | ⟨cmd, i, -, -, hcmd, hdec, hexec⟩ |
    ⟨cmd, why, -, -, -, -, rfl⟩ | ⟨-, -, hseq⟩
  · rw [hrst] at hreset; contradiction
  · exact .inl (.refl t)
  · rcases exec_keepsConfig_or_create hexec with hkeep | ⟨width, height, address, rfl, hby⟩
    · exact .inl hkeep
    · exact .inr ⟨cmd, width, height, address, hcmd, hdec, hby⟩
  · exact .inl (.raise s _)
  · exact .inl (seqStep_keepsConfig hseq)

/-- Settles O47: a step out of reset keeps the configuration or is the CREATE that makes it. -/
theorem configurationIsFixedUntilReset : Obligations.ConfigurationIsFixedUntilReset := by
  intro s t hstep hrst
  rcases cycle_keepsConfig_or_create hrst hstep with
    ⟨hcfg, hw, hh, haddr, hlen⟩ | ⟨cmd, width, height, address, hcmd, hdec, hnot, hcfg, hw, hh, haddr⟩
  · refine ⟨fun hconf => ⟨hcfg.trans hconf, hw, hh, haddr, hlen⟩, fun hne => absurd ?_ hne⟩
    rw [hcfg, hw, hh, haddr]; rfl
  · refine ⟨fun hconf => ?_, fun _ =>
      ⟨hnot, cmd, width, height, address, hcmd, hdec, hcfg, hw, hh, haddr⟩⟩
    exact absurd (hnot.symm.trans hconf) Bool.false_ne_true

end Sys2Proof.Machine
end

section
/-! PROOFS. `Hex` as numbers, and its injectivity (41_hex_encoder.md R90 to R92): `Digit` is injective on the
nibbles, and a byte is determined by its two nibbles. -/

namespace Sys2Proof.Machine

/-- The code of a digit, as R90 writes it (41_hex_encoder.md R90). -/
theorem digit_toNat (n : BitVec 4) :
    (digit n).toNat = if n.toNat ≤ 9 then 0x30 + n.toNat else 0x41 + (n.toNat - 10) := by
  unfold digit
  split <;> rw [BitVec.toNat_ofNat] <;> omega

theorem digit_injective : Function.Injective digit := by
  intro n m h
  have hcodes := congrArg BitVec.toNat h
  rw [digit_toNat, digit_toNat] at hcodes
  apply BitVec.eq_of_toNat_eq
  split at hcodes <;> split at hcodes <;> omega

theorem highNibble_toNat (b : Byte) : (b.extractLsb' 4 4).toNat = b.toNat / 16 := by
  rw [BitVec.extractLsb'_toNat, Nat.shiftRight_eq_div_pow]
  omega

theorem lowNibble_toNat (b : Byte) : (b.extractLsb' 0 4).toNat = b.toNat % 16 := by
  rw [BitVec.extractLsb'_toNat, Nat.shiftRight_zero]

/-- A byte is determined by its two nibbles (41_hex_encoder.md R92). -/
theorem byte_eq_of_nibbles_eq {b b' : Byte} (hhi : b.extractLsb' 4 4 = b'.extractLsb' 4 4)
    (hlo : b.extractLsb' 0 4 = b'.extractLsb' 0 4) : b = b' := by
  have hdiv := congrArg BitVec.toNat hhi
  have hmod := congrArg BitVec.toNat hlo
  rw [highNibble_toNat, highNibble_toNat] at hdiv
  rw [lowNibble_toNat, lowNibble_toNat] at hmod
  apply BitVec.eq_of_toNat_eq
  omega

theorem hex_injective : Function.Injective hex := by
  intro b b' h
  obtain ⟨hhi, hlo⟩ : hexHi b = hexHi b' ∧ hexLo b = hexLo b' := by simpa [hex] using h
  exact byte_eq_of_nibbles_eq (digit_injective hhi) (digit_injective hlo)

/-- Settles O23: the two characters are digits of the nibbles, and `Hex` is injective. -/
theorem hexPairsAreInjective : Obligations.HexPairsAreInjective := by
  refine ⟨fun b => ⟨hexHi b, hexLo b, rfl, ?high, ?low, fun c hc => ?chars⟩,
    fun _ _ h => hex_injective h⟩
  case high => rw [hexHi, digit_toNat, highNibble_toNat]
  case low => rw [hexLo, digit_toNat, lowNibble_toNat]
  case chars =>
    obtain ⟨n, rfl⟩ := exists_digit_of_mem_hex (List.mem_pair.2 hc)
    exact ⟨digit_range n, digit_ne_of_lt (by decide) n, digit_ne_of_lt (by decide) n⟩

end Sys2Proof.Machine
end

section
/-! PROOFS. The checksum against the numbers it is computed from (42_checksum.md R100 to R102): the transform is the
negation of a byte, and `cksumSum` is the sum of the bytes as numbers, reduced modulo 256. -/

namespace Sys2Proof.Machine

/-- Complement and increment is the two's-complement negation (42_checksum.md R102). -/
theorem cksumByte_eq_neg (b : Byte) : cksumByte b = -b := by
  have hmask : Config.ckXor = BitVec.allOnes 8 := rfl
  rw [cksumByte, hmask, BitVec.xor_allOnes, BitVec.neg_eq_not_add]
  rfl

theorem cksumByte_toNat (b : Byte) : (cksumByte b).toNat = (256 - b.toNat) % 256 := by
  rw [cksumByte_eq_neg, BitVec.toNat_neg]

/-- Reducing after each addition is reducing once (42_checksum.md R103). -/
theorem cksumSum_toNat (l : List Byte) : (cksumSum l).toNat = (l.map BitVec.toNat).sum % 256 := by
  induction l with
  | nil => rfl
  | cons r l ih =>
    rw [cksumSum, cksumTerm_raw, BitVec.toNat_add, ih, List.map_cons, List.sum_cons,
      Nat.add_mod_mod]

/-- The sum of the frame's raw bytes, as a number (42_checksum.md R100). -/
theorem Surface.sumBody_toNat (S : Surface) :
    S.sumBody.toNat =
      (S.hdr.toNat + S.resb.toNat + (S.packed.map BitVec.toNat).sum + 3) % 256 := by
  have hbody : (S.body.map BitVec.toNat).sum =
      S.hdr.toNat + S.resb.toNat + (S.packed.map BitVec.toNat).sum := by
    simp only [Surface.body, List.cons_append, List.nil_append, List.map_cons, List.sum_cons,
      Nat.add_assoc]
  have heof : Config.eof.toNat = 3 := rfl
  rw [Surface.sumBody, BitVec.toNat_add, cksumSum_toNat, hbody, heof, Nat.mod_add_mod]

theorem Surface.checksum_toNat (S : Surface) :
    S.checksum.toNat = (256 - S.sumBody.toNat) % 256 :=
  cksumByte_toNat S.sumBody

/-- Settles O27: the checksum negates the byte that the receiver's numbers reduce to. -/
theorem checksumNegatesTheSum : Obligations.ChecksumNegatesTheSum := by
  intro S
  have hck := S.checksum_toNat
  have hsum := S.sumBody_toNat
  exact ⟨hck, by omega⟩

end Sys2Proof.Machine
end

section
/-! PROOFS. The raw fields, the size and the offsets of the frame (43_frame_composer.md R110 to R115). The frame is
the start byte, the hex expansion of the body, the end byte and the checksum's digits. The `i`-th raw byte of the
body therefore has its digits at 1 + 2i and 2 + 2i, and what follows the body begins at 5 + 2P. -/

namespace Sys2Proof.Machine

namespace Surface

variable (S : Surface)

/-! The raw fields as numbers (R110 to R112). -/

theorem hdr_toNat : S.hdr.toNat = S.addr.toNat + 17 := by
  have haddr : S.addr.toNat < 16 := S.addr.isLt
  have hoffset : Config.addrOffset.toNat = 17 := rfl
  rw [hdr, BitVec.toNat_add, BitVec.toNat_setWidth, hoffset]
  omega

theorem resb_toNat : S.resb.toNat = S.npix / 8 % 256 :=
  BitVec.toNat_ofNat _ _

/-- With `ResFits` nothing is cut off (43_frame_composer.md R111). -/
theorem resb_toNat_of_resFits {S : Surface} (hfits : S.ResFits) : S.resb.toNat = S.npix / 8 := by
  rw [resb_toNat, Nat.mod_eq_of_lt (Nat.lt_succ_of_le hfits)]

theorem payloadBytes_eq : S.payloadBytes = (S.npix + 7) / 8 := rfl

theorem payloadBytes_of_mulEight {S : Surface} (hmul : S.MulEight) : S.payloadBytes = S.npix / 8 := by
  unfold MulEight at hmul
  rw [payloadBytes_eq]
  omega

/-- The last payload byte is only partly filled (40_framebuffer.md R78). -/
theorem payloadBytes_of_not_mulEight {S : Surface} (hmul : ¬S.MulEight) :
    S.payloadBytes = S.npix / 8 + 1 := by
  unfold MulEight at hmul
  rw [payloadBytes_eq]
  omega

/-! The frame by its parts (R113 to R115). -/

theorem frame_eq_cons :
    S.frame = Config.sof :: (S.body.flatMap hex ++ Config.eof :: hex S.checksum) := by
  simp [frame]

theorem frame_length : S.frame.length = 2 * S.payloadBytes + 8 := by
  rw [frame_eq_cons, List.length_cons, List.length_append, flatMap_hex_length, body_length,
    List.length_cons, hex_length]
  omega

theorem frame_getElem?_zero : S.frame[0]? = some Config.sof := by
  rw [frame_eq_cons]
  rfl

/-- The start byte shifts the expanded body by one. -/
theorem frame_getElem?_body {o : Nat} (ho : o < 4 + 2 * S.payloadBytes) :
    S.frame[o + 1]? = (S.body.flatMap hex)[o]? := by
  have hbody : o < (S.body.flatMap hex).length := by
    rw [flatMap_hex_length, body_length]
    omega
  rw [frame_eq_cons, List.getElem?_cons_succ, List.getElem?_append_left hbody]

/-- The end byte and the checksum's digits come after the body. -/
theorem frame_getElem?_tail (j : Nat) :
    S.frame[5 + 2 * S.payloadBytes + j]? = (Config.eof :: hex S.checksum)[j]? := by
  have hoffset : 5 + 2 * S.payloadBytes + j = (S.body.flatMap hex).length + j + 1 := by
    rw [flatMap_hex_length, body_length]
    omega
  rw [hoffset, frame_eq_cons, List.getElem?_cons_succ,
    List.getElem?_append_right (Nat.le_add_right _ _), Nat.add_sub_cancel_left]

/-- The two digits of a raw byte stand side by side, the high one first (43_frame_composer.md R113). -/
theorem frame_getElem?_digits {S : Surface} {i : Nat} {r : Byte} (h : S.body[i]? = some r) :
    S.frame[1 + 2 * i]? = some (hexHi r) ∧ S.frame[2 + 2 * i]? = some (hexLo r) := by
  obtain ⟨hlt, -⟩ := List.getElem?_eq_some_iff.1 h
  rw [body_length] at hlt
  constructor
  · rw [Nat.add_comm, S.frame_getElem?_body (by omega), flatMap_hex_hi, h, Option.map_some]
  · rw [Nat.add_comm, S.frame_getElem?_body (o := 2 * i + 1) (by omega), flatMap_hex_lo, h,
      Option.map_some]

end Surface

/-- Settles O26: the byte cuts the quotient `NPIX div 8`, and the payload is the quotient rounded up. -/
theorem resolutionByteTruncates : Obligations.ResolutionByteTruncates := by
  intro S
  refine ⟨S.resb_toNat, Surface.resb_toNat_of_resFits, fun hfits hmul => ?whole,
    fun hfits hmul => ?padded⟩
  case whole =>
    rw [S.packed_length, Surface.payloadBytes_of_mulEight hmul, Surface.resb_toNat_of_resFits hfits]
  case padded =>
    rw [S.packed_length, Surface.payloadBytes_of_not_mulEight hmul,
      Surface.resb_toNat_of_resFits hfits]

/-- Settles O28: the three forms of the length differ only in how `P` is written. -/
theorem frameHasItsSize : Obligations.FrameHasItsSize := by
  intro S
  have hlen := S.frame_length
  have hpayload : S.payloadBytes = (S.w.toNat * S.h.toNat + 7) / 8 := S.payloadBytes_eq
  exact ⟨by omega, hlen, hlen⟩

/-- Settles O29: HDR, RESB and `PB(k)` are the raw bytes 0, 1 and k + 2 of the body. -/
theorem frameHasItsOffsets : Obligations.FrameHasItsOffsets := by
  intro S
  obtain ⟨hhdrHi, hhdrLo⟩ := Surface.frame_getElem?_digits S.body_zero
  obtain ⟨hresbHi, hresbLo⟩ := Surface.frame_getElem?_digits S.body_one
  refine ⟨S.frame_getElem?_zero, hhdrHi, hhdrLo, hresbHi, hresbLo, fun k hk => ?payload,
    S.frame_getElem?_tail 0, ?cksumHi, ?cksumLo, ?last⟩
  case payload =>
    have hhi : 5 + 2 * k = 1 + 2 * (k + 2) := by omega
    have hlo : 6 + 2 * k = 2 + 2 * (k + 2) := by omega
    rw [hhi, hlo]
    exact Surface.frame_getElem?_digits (S.body_payload hk)
  case cksumHi =>
    have hoffset : 6 + 2 * S.payloadBytes = 5 + 2 * S.payloadBytes + 1 := by omega
    rw [hoffset, S.frame_getElem?_tail]
    rfl
  case cksumLo =>
    have hoffset : 7 + 2 * S.payloadBytes = 5 + 2 * S.payloadBytes + 2 := by omega
    rw [hoffset, S.frame_getElem?_tail]
    rfl
  case last =>
    rw [S.frame_length]
    omega

/-- Settles O25: a 4-bit address plus 17 fits a byte. -/
theorem headerIsAddressPlus17 : Obligations.HeaderIsAddressPlus17 := by
  intro S
  have haddr : S.addr.toNat < 16 := S.addr.isLt
  have hhdr := S.hdr_toNat
  exact ⟨hhdr, by omega, by omega⟩

end Sys2Proof.Machine
end

section
/-! PROOFS. Decoding and encoding are inverse to each other (30_encoding.md R56 to R59, R63): the fields of a
command's word are its operands, and a word that decodes to a command is made of that command's fields. -/

namespace Sys2Proof

/-! The fields of a command's word. -/

/-- A bit of a word, as a number. -/
theorem getLsbD_toNat {n : Nat} (v : BitVec n) (i : Nat) :
    (v.getLsbD i).toNat = v.toNat / 2 ^ i % 2 := by
  rw [BitVec.getLsbD, Nat.toNat_testBit]

theorem encode_create_fields (width height : BitVec 10) (address : BitVec 8) :
    (encode (.create width height address)).extractLsb' 18 10 = width ∧
    (encode (.create width height address)).extractLsb' 8 10 = height ∧
    (encode (.create width height address)).extractLsb' 0 8 = address := by
  have := width.isLt
  have := height.isLt
  have := address.isLt
  refine ⟨?_, ?_, ?_⟩ <;> apply BitVec.eq_of_toNat_eq <;>
    rw [field_toNat, encode_create_toNat] <;> omega

theorem encode_setPixel_fields (x y : BitVec 12) (value : Bool) :
    (encode (.setPixel x y value)).extractLsb' 16 12 = x ∧
    (encode (.setPixel x y value)).extractLsb' 4 12 = y ∧
    (encode (.setPixel x y value)).getLsbD 3 = value ∧
    (encode (.setPixel x y value)).extractLsb' 0 3 = 0 := by
  have := x.isLt
  have := y.isLt
  have := value.toNat_lt
  refine ⟨?x, ?y, ?value, ?reserved⟩
  case value =>
    have hbit := getLsbD_toNat (encode (.setPixel x y value)) 3
    rw [encode_setPixel_toNat] at hbit
    rw [Bool.eq_iff_iff, ← Bool.toNat_eq_one, ← Bool.toNat_eq_one]
    omega
  all_goals
    apply BitVec.eq_of_toNat_eq
    rw [field_toNat, encode_setPixel_toNat]
  case reserved =>
    show _ = 0
    omega
  all_goals omega

theorem encode_encodeInto_field (cap : BitVec 28) :
    (encode (.encodeInto cap)).extractLsb' 0 28 = cap := by
  have := cap.isLt
  apply BitVec.eq_of_toNat_eq
  rw [field_toNat, encode_encodeInto_toNat]
  omega

theorem decode_encode (i : Instr) : decode (encode i) = .command i := by
  have hop := opField_encode i
  cases i with
  | create width height address =>
    obtain ⟨hwidth, hheight, haddress⟩ := encode_create_fields width height address
    rw [decode_of_op_create hop, hwidth, hheight, haddress]
  | setPixel x y value =>
    obtain ⟨hx, hy, hvalue, hreserved⟩ := encode_setPixel_fields x y value
    rw [decode_of_op_setPixel hop hreserved, hx, hy, hvalue]
  | dimensions => exact decode_of_op_dimensions hop rfl
  | frameSize => exact decode_of_op_frameSize hop rfl
  | encodeInto cap => rw [decode_of_op_encodeInto hop, encode_encodeInto_field]
  | encodeToSink => exact decode_of_op_encodeToSink hop rfl

/-- Settles O1, by the fields of each command's word. -/
theorem decodeOfEncode : Obligations.DecodeOfEncode := decode_encode

/-! The word of a decoded command. -/

/-- A word is its opcode above its other bits. -/
theorem toNat_eq_opField_add (cmd : CmdWord) :
    cmd.toNat = (opField cmd).toNat * 2 ^ 28 + (cmd.extractLsb' 0 28).toNat := by
  have := cmd.isLt
  rw [opField, field_toNat, field_toNat]
  omega

/-- A word whose operand bits are 0 is made of its opcode alone (30_encoding.md R58). -/
theorem eq_opcode_append_zero {cmd : CmdWord} {op : BitVec 4} (hop : opField cmd = op)
    (hres : cmd.extractLsb' 0 28 = 0) : op ++ 0#28 = cmd := by
  apply BitVec.eq_of_toNat_eq
  rw [append_toNat, toNat_eq_opField_add cmd, hop, hres]
  rfl

theorem encode_of_decode {cmd : CmdWord} {i : Instr} (h : decode cmd = .command i) :
    encode i = cmd := by
  have hcmd := toNat_eq_opField_add cmd
  rcases decode_command_cases h with ⟨hop, rfl⟩ | ⟨hop, hres, rfl⟩ | ⟨hop, hres, rfl⟩ |
    ⟨hop, hres, rfl⟩ | ⟨hop, rfl⟩ | ⟨hop, hres, rfl⟩
  case inl =>
    apply BitVec.eq_of_toNat_eq
    rw [hop, field_toNat] at hcmd
    simp only [encode_create_toNat, field_toNat]
    simp at hcmd
    omega
  case inr.inl =>
    have hlow := congrArg BitVec.toNat hres
    apply BitVec.eq_of_toNat_eq
    rw [hop, field_toNat] at hcmd
    rw [field_toNat] at hlow
    simp only [encode_setPixel_toNat, field_toNat, getLsbD_toNat]
    simp at hcmd hlow
    omega
  case inr.inr.inr.inr.inl =>
    apply BitVec.eq_of_toNat_eq
    rw [encode_encodeInto_toNat, hcmd, hop]
    rfl
  all_goals exact eq_opcode_append_zero hop hres

/-- Settles O2: two commands with one word decode from it alike. -/
theorem everyWordIsOneCommandOrIllegal : Obligations.EveryWordIsOneCommandOrIllegal := by
  intro cmd
  cases hdec : decode cmd with
  | command i =>
    refine .inl ⟨i, rfl, encode_of_decode hdec, ?_⟩
    rintro j rfl
    exact Decoded.command.inj ((decode_encode j).symm.trans hdec)
  | illegal why =>
    refine .inr ⟨why, rfl, ?_⟩
    rintro j rfl
    cases (decode_encode j).symm.trans hdec

/-- Settles O4: fixed words, evaluated. -/
theorem vectorWordsDecode : Obligations.VectorWordsDecode := by
  unfold Obligations.VectorWordsDecode
  decide

/-! The assembler. -/

theorem Instr.toLine_wellFormed (i : Instr) : i.toLine.wellFormed = true := by
  cases i with
  | create width height address =>
    simp only [toLine, Line.wellFormed, width.isLt, height.isLt, address.isLt, decide_true,
      Bool.and_self]
  | setPixel x y value =>
    simp only [toLine, Line.wellFormed, x.isLt, y.isLt, value.toNat_lt, decide_true, Bool.and_self]
  | encodeInto cap => exact decide_eq_true cap.isLt
  | dimensions | frameSize | encodeToSink => rfl

theorem Instr.toLine_expand (i : Instr) : i.toLine.expand = [i] := by
  cases i with
  | setPixel x y value => cases value <;> simp [toLine, Line.expand]
  | _ => simp [toLine, Line.expand]

/-- Settles O5: an operand taken as a number comes back in the width of its field. -/
theorem linesAssembleToTheirWords : Obligations.LinesAssembleToTheirWords := by
  intro i
  refine ⟨i.toLine_wellFormed, i.toLine_expand, ?_⟩
  rw [Line.assemble, if_pos i.toLine_wellFormed, i.toLine_expand, List.map_singleton]

end Sys2Proof
end

section
/-! PROOFS. The commands, said forwards: what each answers on each of its paths (40_framebuffer.md R70 to R74,
43_frame_composer.md R116 to R120, 60_exceptions.md R140 to R143), and what SET_PIXEL and CREATE make of FB. -/

namespace Sys2Proof.Machine

variable {s : State}

/-! CREATE (40_framebuffer.md R70, 60_exceptions.md R143). -/

section

variable {width height : BitVec 10} {address : BitVec 8}

theorem addressTooBig_iff : addressTooBig address = true ↔ 16 ≤ address.toNat := decide_eq_true_iff

theorem addressTooBig_of_lt (haddr : address.toNat < 16) : addressTooBig address = false :=
  decide_eq_false (Nat.not_le.2 haddr)

theorem dimensionIsZero_iff : dimensionIsZero width height = true ↔ width = 0 ∨ height = 0 := by
  simp [dimensionIsZero]

theorem exec_create_of_cfg (hcfg : s.cfg = true) :
    exec (.create width height address) s = .next (s.raise .alreadyConfigured) := by
  simp only [exec, execCreate, hcfg, if_true]

theorem exec_create_of_badAddress (hcfg : s.cfg = false) (haddr : 16 ≤ address.toNat) :
    exec (.create width height address) s = .next (s.raise (.invalidAddress address)) := by
  have hbig := addressTooBig_iff.2 haddr
  simp only [exec, execCreate, hcfg, hbig, Bool.false_eq_true, if_true, if_false]

theorem exec_create_of_badDimension (hcfg : s.cfg = false) (haddr : address.toNat < 16)
    (hzero : width = 0 ∨ height = 0) :
    exec (.create width height address) s = .next (s.raise .invalidDimensions) := by
  have hbig := addressTooBig_of_lt haddr
  have hzero := dimensionIsZero_iff.2 hzero
  simp only [exec, execCreate, hcfg, hbig, hzero, Bool.false_eq_true, if_true, if_false]

theorem exec_create_of_legal (hcfg : s.cfg = false) (haddr : address.toNat < 16) (hwidth : width ≠ 0)
    (hheight : height ≠ 0) :
    exec (.create width height address) s =
      .next ((s.configure width height address).respond 0 0) := by
  have hbig := addressTooBig_of_lt haddr
  have hzero : ¬ dimensionIsZero width height = true := by
    rw [dimensionIsZero_iff]
    exact not_or.2 ⟨hwidth, hheight⟩
  simp only [exec, execCreate, hcfg, hbig, hzero, Bool.false_eq_true, if_false]

end

/-! The other commands. -/

/-- Before a CREATE has succeeded every command but CREATE is refused (70_reset_and_hazards.md R162). -/
theorem exec_of_not_cfg {i : Instr} (hcfg : s.cfg = false) (hi : ∀ w h a, i ≠ .create w h a) :
    exec i s = .next (s.raise .notConfigured) := by
  cases i with
  | create w h a => exact absurd rfl (hi w h a)
  | setPixel x y v => simp [exec, execSetPixel, hcfg]
  | dimensions => simp [exec, execDimensions, hcfg]
  | frameSize => simp [exec, execFrameSize, hcfg]
  | encodeInto cap => simp [exec, execEncodeInto, hcfg]
  | encodeToSink => simp [exec, execEncodeToSink, hcfg]

theorem exec_setPixel_of_not_clips {x y : BitVec 12} (hcfg : s.cfg = true)
    (hclips : s.surface.clips x y = false) (v : Bool) :
    exec (.setPixel x y v) s = .next ((s.putPixel x y v).respond 0 0) := by
  simp only [exec, execSetPixel, hcfg, hclips, Bool.false_eq_true, if_true, if_false]

theorem exec_dimensions_of_cfg (hcfg : s.cfg = true) :
    exec .dimensions s = .next (s.respond 0 (dimensionsValue s.w s.h)) := by
  simp only [exec, execDimensions, hcfg, if_true]

theorem exec_frameSize_of_cfg (hcfg : s.cfg = true) :
    exec .frameSize s = .next (s.respond 0 (lengthValue s.surface.frameLength)) := by
  simp only [exec, execFrameSize, hcfg, if_true]

theorem exec_encodeInto_of_small {cap : BitVec 28} (hcfg : s.cfg = true)
    (hcap : cap.toNat < s.surface.frameLength) :
    exec (.encodeInto cap) s = .next (s.raise (.bufferTooSmall cap)) := by
  simp only [exec, execEncodeInto, hcfg, hcap, if_true]

theorem exec_encodeInto_of_fits {cap : BitVec 28} (hcfg : s.cfg = true)
    (hcap : s.surface.frameLength ≤ cap.toNat) :
    exec (.encodeInto cap) s = .next (s.startBufferFill cap) := by
  simp only [exec, execEncodeInto, hcfg, Nat.not_lt.2 hcap, if_true, if_false]

theorem exec_encodeToSink_of_cfg (hcfg : s.cfg = true) :
    exec .encodeToSink s = .next s.startStream := by
  simp only [exec, execEncodeToSink, hcfg, if_true]

/-! The statements that are one of these paths. -/

/-- Settles O12: the path of a legal CREATE. -/
theorem createSucceeds : Obligations.CreateSucceeds :=
  fun _ _ _ _ hcfg haddr hwidth hheight => exec_create_of_legal hcfg haddr hwidth hheight

/-- Settles O13: the three refusals of CREATE. -/
theorem createFaultsInOrder : Obligations.CreateFaultsInOrder :=
  fun _ _ _ _ => ⟨exec_create_of_cfg, exec_create_of_badAddress, exec_create_of_badDimension⟩

/-- Settles O22: the refusal before a CREATE. -/
theorem commandsNeedAnInstance : Obligations.CommandsNeedAnInstance :=
  fun _ _ hcfg hi => exec_of_not_cfg hcfg hi

/-- Settles O16: the clip. -/
theorem setPixelOutsideIsClipped : Obligations.SetPixelOutsideIsClipped :=
  fun s x y v hcfg hout => exec_setPixel_of_clips hcfg ((s.surface.clips_iff x y).2 hout) v

/-- Settles O31: the acceptance. -/
theorem encodeIntoIsAccepted : Obligations.EncodeIntoIsAccepted :=
  fun _ _ hcfg hcap => exec_encodeInto_of_fits hcfg hcap

/-- Settles O32: the refusal of a small buffer. -/
theorem smallBufferIsRefused : Obligations.SmallBufferIsRefused :=
  fun _ _ hcfg hcap => exec_encodeInto_of_small hcfg hcap

/-- Settles O33: the acceptance. -/
theorem encodeToSinkIsAccepted : Obligations.EncodeToSinkIsAccepted :=
  fun _ hcfg => exec_encodeToSink_of_cfg hcfg

/-! The queries. -/

/-- `{6'b0, W, 6'b0, H}` as a number (30_encoding.md R61). -/
theorem dimensionsValue_toNat (w h : BitVec 10) :
    (dimensionsValue w h).toNat = w.toNat * 2 ^ 16 + h.toNat := by
  rw [dimensionsValue, append_toNat, append_toNat, append_toNat, BitVec.toNat_ofNat]
  omega

/-- Settles O20: the fields of the value. -/
theorem dimensionsReturnsBoth : Obligations.DimensionsReturnsBoth := by
  intro s hcfg
  have hw := s.w.isLt
  have hh := s.h.isLt
  refine ⟨_, exec_dimensions_of_cfg hcfg, ?_, ?_, ?_, ?_⟩ <;> apply BitVec.eq_of_toNat_eq <;>
    rw [field_toNat, dimensionsValue_toNat]
  · omega
  · omega
  · rw [BitVec.toNat_ofNat]
    omega
  · rw [BitVec.toNat_ofNat]
    omega

theorem Surface.lengthValue_toNat (S : Surface) :
    (lengthValue S.frameLength).toNat = S.frameLength := by
  have := S.frameLength_le
  rw [lengthValue, BitVec.toNat_ofNat, Nat.mod_eq_of_lt]
  omega

/-- Settles O21: the value is L, the length of the frame. -/
theorem frameSizeIsTheFramesLength : Obligations.FrameSizeIsTheFramesLength := by
  intro s hcfg
  have hvalue := s.surface.lengthValue_toNat
  refine ⟨_, exec_frameSize_of_cfg hcfg, hvalue, ?_⟩
  rw [hvalue, s.surface.frame_length, s.surface.frameLength_eq]

/-! FB. -/

/-- A grid whose pixels are all off packs to zero bytes (40_framebuffer.md R79). -/
theorem Surface.packed_of_blank {S : Surface} (hblank : ∀ i, fbRead S.fb i = false) :
    S.packed = List.replicate S.payloadBytes 0x00#8 := by
  have hbyte (k : Nat) : S.packedByte k = 0x00#8 := by
    apply BitVec.eq_of_getLsbD_eq
    intro j hj
    rw [S.packedByte_getLsbD k hj, packedBit, hblank, ite_self, BitVec.getLsbD_zero]
  rw [packed, funext hbyte, List.map_const', List.length_range]

/-- Settles O14: CREATE's FB is all zero bits. -/
theorem createdGridIsBlank : Obligations.CreatedGridIsBlank := by
  intro s width height address hcfg haddr hwidth hheight
  refine ⟨_, exec_create_of_legal hcfg haddr hwidth hheight, fbZero_length _, fbRead_zero _, ?_⟩
  exact Surface.packed_of_blank (fbRead_zero _)

theorem Surface.clips_eq_false_iff (S : Surface) (x y : BitVec 12) :
    S.clips x y = false ↔ x.toNat < S.w.toNat ∧ y.toNat < S.h.toNat := by
  rw [← Bool.not_eq_true, S.clips_iff, not_or, Nat.not_le, Nat.not_le]

/-- Settles O15: the index is one to one on the grid. -/
theorem setPixelWritesOnePixel : Obligations.SetPixelWritesOnePixel := by
  intro s x y v hinv hcfg hx hy
  have hclips := (s.surface.clips_eq_false_iff x y).2 ⟨hx, hy⟩
  refine ⟨_, exec_setPixel_of_not_clips hcfg hclips v, rfl, fbWrite_length _ _ _, ?_⟩
  intro x' y' hx' hy'
  change fbRead (fbWrite s.fb (s.surface.pixelIndex x.toNat y.toNat) v) (s.surface.pixelIndex x' y') =
    if x' = x.toNat ∧ y' = y.toNat then v else fbRead s.fb (s.surface.pixelIndex x' y')
  split
  case isTrue heq =>
    obtain ⟨rfl, rfl⟩ := heq
    exact fbRead_write_same (hinv.fbLength ▸ s.surface.pixelIndex_lt hx hy) v
  case isFalse hne =>
    exact fbRead_write_other _ (fun hindex => hne (s.surface.pixelIndex_injective hy' hy hindex)) v

/-- What SET_PIXEL leaves in FB (40_framebuffer.md R72). -/
def State.pixelSet (s : State) (x y : BitVec 12) (v : Bool) (fb : List Bool) : List Bool :=
  if s.cfg = true ∧ s.surface.clips x y = false then
    fbWrite fb (s.surface.pixelIndex x.toNat y.toNat) v
  else fb

/-- SET_PIXEL writes FB, and leaves CFG, W and H alone, which decide what it writes. -/
theorem exec_setPixel_fb {t : State} {x y : BitVec 12} {v : Bool}
    (h : exec (.setPixel x y v) s = .next t) :
    t.fb = s.pixelSet x y v s.fb ∧ t.pixelSet = s.pixelSet := by
  cases hcfg : s.cfg with
  | false =>
    rw [exec_of_not_cfg (i := .setPixel x y v) hcfg nofun] at h
    cases h
    exact ⟨by simp [State.pixelSet, hcfg], rfl⟩
  | true =>
    cases hclips : s.surface.clips x y with
    | false =>
      rw [exec_setPixel_of_not_clips hcfg hclips] at h
      cases h
      exact ⟨by simp [State.pixelSet, State.putPixel, hcfg, hclips], rfl⟩
    | true =>
      rw [exec_setPixel_of_clips hcfg hclips] at h
      cases h
      exact ⟨by simp [State.pixelSet, hclips], rfl⟩

/-- Different pixels of the grid have different indices (40_framebuffer.md R72 (e)). -/
theorem State.pixelSet_comm {x y x' y' : BitVec 12} (hne : (x, y) ≠ (x', y')) (v v' : Bool)
    (fb : List Bool) :
    s.pixelSet x' y' v' (s.pixelSet x y v fb) = s.pixelSet x y v (s.pixelSet x' y' v' fb) := by
  by_cases hin : s.cfg = true ∧ s.surface.clips x y = false
  case neg => simp only [pixelSet, hin, if_false]
  by_cases hin' : s.cfg = true ∧ s.surface.clips x' y' = false
  case neg => simp only [pixelSet, hin', if_false]
  obtain ⟨-, hy⟩ := (s.surface.clips_eq_false_iff x y).1 hin.2
  obtain ⟨-, hy'⟩ := (s.surface.clips_eq_false_iff x' y').1 hin'.2
  have hindex : s.surface.pixelIndex x.toNat y.toNat ≠ s.surface.pixelIndex x'.toNat y'.toNat := by
    intro heq
    obtain ⟨hx, hy⟩ := s.surface.pixelIndex_injective hy hy' heq
    exact hne (Prod.ext (BitVec.eq_of_toNat_eq hx) (BitVec.eq_of_toNat_eq hy))
  simp only [pixelSet, if_pos hin, if_pos hin', fbWrite]
  exact List.set_comm _ _ hindex

/-- Settles O18: writes at different indices commute. -/
theorem setPixelsOfDifferentPixelsCommute : Obligations.SetPixelsOfDifferentPixelsCommute := by
  intro s t u t' u' x y x' y' v v' _ hne hst htu hst' htu'
  obtain ⟨ht, hset⟩ := exec_setPixel_fb hst
  obtain ⟨hu, -⟩ := exec_setPixel_fb htu
  obtain ⟨ht', hset'⟩ := exec_setPixel_fb hst'
  obtain ⟨hu', -⟩ := exec_setPixel_fb htu'
  rw [hu, hset, ht, hu', hset', ht']
  exact State.pixelSet_comm hne v v' s.fb

end Sys2Proof.Machine
end

section
/-! PROOFS. The byte sequencer's place in the frame (43_frame_composer.md R120 to R131). A busy block's registers
say how many bytes of the frame are out; the byte it emits next is the frame's byte at that place, and its
step moves the place on by one, or ends the encode at the frame's length. -/

namespace Sys2Proof.Machine

/-- PHASE, NIB, K and SUM are those of the place at which `n` bytes of the frame are out
(43_frame_composer.md R131, 42_checksum.md R103): the part of `State.SeqInv` that the sequencer's registers
make up. -/
structure State.PlacedAt (s : State) (n : Nat) : Prop where
  position : n = expectedPos s.surface s.phase s.nib s.k.toNat
  payloadIndex : s.phase = .pay → s.k.toNat < s.surface.payloadBytes
  runningSum : s.phase ≠ .sof → s.sum = expectedSum s.surface s.phase s.k.toNat

theorem State.SeqInv.placedAt {s : State} (h : s.SeqInv) : s.PlacedAt s.pos.toNat :=
  ⟨h.position, h.payloadIndex, h.runningSum⟩

/-! The byte that a busy block emits. -/

/-- The two digits of the `i`-th raw byte of the body, told apart by NIB (43_frame_composer.md R131). -/
theorem Surface.frame_getElem?_nibble {S : Surface} {i : Nat} {r : Byte} (h : S.body[i]? = some r)
    (nib : Bool) : S.frame[1 + 2 * i + nib.toNat]? = some (nibbleOf nib r) := by
  obtain ⟨hhi, hlo⟩ := Surface.frame_getElem?_digits h
  cases nib with
  | false => exact hhi
  | true => rwa [Bool.toNat_true, Nat.add_right_comm]

theorem Surface.frame_getElem?_cksum (S : Surface) (nib : Bool) :
    S.frame[6 + 2 * S.payloadBytes + nib.toNat]? = some (nibbleOf nib S.checksum) := by
  have hoffset : 6 + 2 * S.payloadBytes + nib.toNat = 5 + 2 * S.payloadBytes + (1 + nib.toNat) := by
    omega
  rw [hoffset, S.frame_getElem?_tail]
  cases nib <;> rfl

theorem State.PlacedAt.frame_getElem? {s : State} {n : Nat} (h : s.PlacedAt n)
    (hbusy : s.phase ≠ .idle) : s.surface.frame[n]? = some s.seqByte := by
  obtain ⟨rfl, hk, hsum⟩ := h
  unfold State.seqByte
  cases hphase : s.phase with
  | idle => exact absurd hphase hbusy
  | sof => exact s.surface.frame_getElem?_zero
  | hdr => exact Surface.frame_getElem?_nibble s.surface.body_zero s.nib
  | res => exact Surface.frame_getElem?_nibble s.surface.body_one s.nib
  | pay =>
    have hoffset : 5 + 2 * s.k.toNat = 1 + 2 * (s.k.toNat + 2) := by omega
    rw [expectedPos, hoffset]
    exact Surface.frame_getElem?_nibble (s.surface.body_payload (hk hphase)) s.nib
  | eof => exact s.surface.frame_getElem?_tail 0
  | ck =>
    have hck : s.sum = s.surface.sumBody := by simpa [hphase, expectedSum] using hsum
    rw [hck]
    exact s.surface.frame_getElem?_cksum s.nib

theorem State.PlacedAt.lt_frame_length {s : State} {n : Nat} (h : s.PlacedAt n)
    (hbusy : s.phase ≠ .idle) : n < s.surface.frame.length :=
  (List.getElem?_eq_some_iff.1 (h.frame_getElem? hbusy)).1

theorem Surface.frameLength_eq_length (S : Surface) : S.frameLength = S.frame.length := by
  rw [frameLength_eq, frame_length]

/-- The whole frame fits POS (00_scope.md R6). -/
theorem Surface.frame_length_lt (S : Surface) : S.frame.length < 2 ^ 18 := by
  have := S.frameLength_le
  rw [← S.frameLength_eq_length]
  omega

/-! How the registers move on. -/

/-- What the second half of a busy block's step does to PHASE, NIB, K and SUM
(43_frame_composer.md R121 to R126): it starts the sum, turns NIB after a high digit, takes a raw byte into
the sum after its low digit, or ends the frame. -/
inductive State.Advances (s : State) : State → Prop
  | start (hphase : s.phase = .sof) : s.Advances { s with sum := 0, phase := .hdr, nib := false }
  | highDigit (hphase : s.phase = .hdr ∨ s.phase = .res ∨ s.phase = .pay ∨ s.phase = .ck)
      (hnib : s.nib = false) : s.Advances { s with nib := true }
  | header (hphase : s.phase = .hdr) (hnib : s.nib = true) :
      s.Advances { s with sum := s.sum + s.surface.hdr, phase := .res, nib := false }
  | resolution (hphase : s.phase = .res) (hnib : s.nib = true) :
      s.Advances { s with sum := s.sum + s.surface.resb, phase := .pay, k := 0, nib := false }
  | payload (hphase : s.phase = .pay) (hnib : s.nib = true)
      (hmore : s.k.toNat + 1 < s.surface.payloadBytes) :
      s.Advances { s with
        sum := s.sum + s.surface.packedByte s.k.toNat, k := s.k + 1, nib := false }
  | lastPayload (hphase : s.phase = .pay) (hnib : s.nib = true)
      (hlast : s.surface.payloadBytes ≤ s.k.toNat + 1) :
      s.Advances { s with sum := s.sum + s.surface.packedByte s.k.toNat, phase := .eof }
  | endByte (hphase : s.phase = .eof) :
      s.Advances { s with sum := s.sum + Config.eof, phase := .ck, nib := false }
  | done (hphase : s.phase = .ck) (hnib : s.nib = true) :
      s.Advances (State.respond { s with phase := .idle } 0 (lengthValue s.surface.frameLength))

theorem State.advances_seqAdvance {s : State} (hbusy : s.phase ≠ .idle) :
    s.Advances s.seqAdvance := by
  cases hphase : s.phase with
  | idle => exact absurd hphase hbusy
  | sof => simpa [seqAdvance, hphase] using Advances.start hphase
  | hdr =>
    cases hnib : s.nib with
    | false => simpa [seqAdvance, hphase, hnib] using Advances.highDigit (by simp [hphase]) hnib
    | true => simpa [seqAdvance, addSum, hphase, hnib] using Advances.header hphase hnib
  | res =>
    cases hnib : s.nib with
    | false => simpa [seqAdvance, hphase, hnib] using Advances.highDigit (by simp [hphase]) hnib
    | true => simpa [seqAdvance, addSum, hphase, hnib] using Advances.resolution hphase hnib
  | pay =>
    cases hnib : s.nib with
    | false => simpa [seqAdvance, hphase, hnib] using Advances.highDigit (by simp [hphase]) hnib
    | true =>
      rcases Nat.lt_or_ge (s.k.toNat + 1) s.surface.payloadBytes with hmore | hlast
      · simpa [seqAdvance, addSum, hphase, hnib, hmore] using Advances.payload hphase hnib hmore
      · simpa [seqAdvance, addSum, hphase, hnib, Nat.not_lt.2 hlast] using
          Advances.lastPayload hphase hnib hlast
  | eof => simpa [seqAdvance, hphase] using Advances.endByte hphase
  | ck =>
    cases hnib : s.nib with
    | false => simpa [seqAdvance, hphase, hnib] using Advances.highDigit (by simp [hphase]) hnib
    | true => simpa [seqAdvance, hphase, hnib] using Advances.done hphase hnib

theorem cksumSum_body_take_succ {S : Surface} {i : Nat} {r : Byte} (h : S.body[i]? = some r) :
    cksumSum (S.body.take i) + r = cksumSum (S.body.take (i + 1)) := by
  obtain ⟨hlt, rfl⟩ := List.getElem?_eq_some_iff.1 h
  exact (cksumSum_take_succ S.body hlt).symm

/-! SUM with one more byte (42_checksum.md R103). -/

section

variable {s : State} {n : Nat}

theorem State.PlacedAt.sum_add_hdr (h : s.PlacedAt n) (hphase : s.phase = .hdr) :
    s.sum + s.surface.hdr = cksumSum (s.surface.body.take 1) := by
  have hsum : s.sum = cksumSum (s.surface.body.take 0) := by
    rw [h.runningSum (by simp [hphase]), hphase]
    rfl
  rw [hsum]
  exact cksumSum_body_take_succ s.surface.body_zero

theorem State.PlacedAt.sum_add_resb (h : s.PlacedAt n) (hphase : s.phase = .res) :
    s.sum + s.surface.resb = cksumSum (s.surface.body.take 2) := by
  have hsum : s.sum = cksumSum (s.surface.body.take 1) := by
    rw [h.runningSum (by simp [hphase]), hphase]
    rfl
  rw [hsum]
  exact cksumSum_body_take_succ s.surface.body_one

theorem State.PlacedAt.sum_add_packedByte (h : s.PlacedAt n) (hphase : s.phase = .pay) :
    s.sum + s.surface.packedByte s.k.toNat =
      cksumSum (s.surface.body.take (2 + (s.k.toNat + 1))) := by
  have hsum : s.sum = cksumSum (s.surface.body.take (s.k.toNat + 2)) := by
    rw [h.runningSum (by simp [hphase]), hphase, expectedSum, Nat.add_comm]
  have hcount : 2 + (s.k.toNat + 1) = s.k.toNat + 2 + 1 := by omega
  rw [hsum, hcount]
  exact cksumSum_body_take_succ (s.surface.body_payload (h.payloadIndex hphase))

theorem State.PlacedAt.sum_add_eof (h : s.PlacedAt n) (hphase : s.phase = .eof) :
    s.sum + Config.eof = s.surface.sumBody := by
  rw [h.runningSum (by simp [hphase]), hphase, expectedSum, Surface.sumBody]

end

/-- In a phase that sends two digits, the low digit follows the high one (43_frame_composer.md R131). -/
theorem expectedPos_low {phase : Phase}
    (h : phase = .hdr ∨ phase = .res ∨ phase = .pay ∨ phase = .ck) (S : Surface) (k : Nat) :
    expectedPos S phase true k = expectedPos S phase false k + 1 := by
  rcases h with rfl | rfl | rfl | rfl <;> rfl

/-- The place moves on by one while the encode is in progress. -/
theorem State.PlacedAt.seqAdvance {s : State} {n : Nat} (h : s.PlacedAt n) (hbusy : s.phase ≠ .idle)
    (hpayload : 0 < s.surface.payloadBytes) (hbusy' : s.seqAdvance.phase ≠ .idle) :
    s.seqAdvance.PlacedAt (n + 1) := by
  have hposition := h.position
  have hadvances := State.advances_seqAdvance hbusy
  generalize s.seqAdvance = t at hadvances hbusy' ⊢
  cases hadvances with
  | start hphase =>
    rw [hphase] at hposition
    exact ⟨congrArg (· + 1) hposition, nofun, fun _ => rfl⟩
  | highDigit hphase hnib =>
    rw [hnib] at hposition
    refine ⟨?_, h.payloadIndex, h.runningSum⟩
    exact (congrArg (· + 1) hposition).trans (expectedPos_low hphase _ _).symm
  | header hphase hnib =>
    rw [hphase, hnib] at hposition
    exact ⟨congrArg (· + 1) hposition, nofun, fun _ => h.sum_add_hdr hphase⟩
  | resolution hphase hnib =>
    rw [hphase, hnib] at hposition
    exact ⟨congrArg (· + 1) hposition, fun _ => hpayload, fun _ => h.sum_add_resb hphase⟩
  | payload hphase hnib hmore =>
    have hnext : (s.k + 1).toNat = s.k.toNat + 1 := by
      have hfits := s.surface.payloadBytes_le
      change (s.k.toNat + 1) % 2 ^ 18 = _
      omega
    rw [hphase, hnib, expectedPos, Bool.toNat_true] at hposition
    rw [hphase]
    refine ⟨?_, fun _ => hnext.trans_lt hmore, fun _ => ?_⟩
    · change n + 1 = 5 + 2 * (s.k + 1).toNat + 0
      omega
    · change _ = cksumSum (s.surface.body.take (2 + (s.k + 1).toNat))
      rw [hnext]
      exact h.sum_add_packedByte hphase
  | lastPayload hphase hnib hlast =>
    have hk := h.payloadIndex hphase
    rw [hphase, hnib, expectedPos, Bool.toNat_true] at hposition
    refine ⟨?_, nofun, fun _ => (h.sum_add_packedByte hphase).trans (congrArg cksumSum ?_)⟩
    · change n + 1 = 5 + 2 * s.surface.payloadBytes
      omega
    · apply List.take_of_length_le
      rw [s.surface.body_length]
      omega
  | endByte hphase =>
    rw [hphase, expectedPos] at hposition
    refine ⟨?_, nofun, fun _ => h.sum_add_eof hphase⟩
    change n + 1 = 6 + 2 * s.surface.payloadBytes + 0
    omega
  | done => exact absurd rfl hbusy'

/-- The step that leaves the block idle emits the frame's last byte and answers `(0, L)`
(43_frame_composer.md R126). -/
theorem State.PlacedAt.seqAdvance_ends {s : State} {n : Nat} (h : s.PlacedAt n)
    (hbusy : s.phase ≠ .idle) (hidle : s.seqAdvance.phase = .idle) :
    n + 1 = s.surface.frame.length ∧ s.seqAdvance.sum = s.surface.sumBody ∧
      s.seqAdvance.resp = ⟨0, lengthValue s.surface.frameLength⟩ ∧
      s.seqAdvance.responses = s.responses ++ [⟨0, lengthValue s.surface.frameLength⟩] := by
  rcases State.seqAdvance_response hbusy with ⟨hbusy', -, -⟩ | ⟨hphase, hnib, -, hresp, hresponses⟩
  · exact absurd hidle hbusy'
  · obtain ⟨rfl, -, hsum⟩ := h
    refine ⟨?_, ?_, hresp, hresponses⟩
    · rw [hphase, hnib, s.surface.frame_length, expectedPos, Bool.toNat_true]
      omega
    · have hkeep : s.seqAdvance.sum = s.sum := by
        simp [State.seqAdvance, hphase, hnib]
      rw [hkeep, hsum (by simp [hphase]), hphase, expectedSum]

end Sys2Proof.Machine
end

section
/-! PROOFS. The invariant of the machine (`State.Inv`), which every step keeps. Each update of the state that a step is
made of keeps it; the updates that leave the configuration, FAULTS and a sound RESP alone need only OB's
canonical form and the sequencer's part. -/

namespace Sys2Proof.Machine

/-! The byte that leaves the block. -/

/-- `emit` when its byte goes out: into OB or to SINK by MODE, and POS moves on (43_frame_composer.md R127). -/
def State.byteOut (s : State) : State :=
  { s with
    ob := if s.mode = .bufferFill then s.ob.write s.pos.toNat s.seqByte else s.ob
    snk := if s.mode = .stream then s.snk ++ [s.seqByte] else s.snk
    pos := s.pos + 1 }

section

variable {s : State}

theorem State.byteOut_buffer (hmode : s.mode = .bufferFill) : s.byteOut = s.obPut s.seqByte := by
  simp [byteOut, obPut, hmode]

theorem State.byteOut_stream (hmode : s.mode = .stream) : s.byteOut = s.snkPut s.seqByte := by
  simp [byteOut, snkPut, hmode]

end

section

variable (s : State)

@[simp] theorem State.byteOut_cfg : s.byteOut.cfg = s.cfg := rfl
@[simp] theorem State.byteOut_faults : s.byteOut.faults = s.faults := rfl
@[simp] theorem State.byteOut_phase : s.byteOut.phase = s.phase := rfl
@[simp] theorem State.byteOut_mode : s.byteOut.mode = s.mode := rfl
@[simp] theorem State.byteOut_capr : s.byteOut.capr = s.capr := rfl
@[simp] theorem State.byteOut_responses : s.byteOut.responses = s.responses := rfl
@[simp] theorem State.byteOut_snkPast : s.byteOut.snkPast = s.snkPast := rfl
@[simp] theorem State.byteOut_inputs : s.byteOut.inputs = s.inputs := rfl
@[simp] theorem State.byteOut_draws : s.byteOut.draws = s.draws := rfl
@[simp] theorem State.byteOut_surface : s.byteOut.surface = s.surface := rfl
@[simp] theorem State.byteOut_pos : s.byteOut.pos = s.pos + 1 := rfl

end

/-- What a busy block's step can do: send its byte, abort, or wait (43_frame_composer.md R127, R128). -/
theorem seqStep_byteOut_cases {p : PortInputs} {s t : State} (h : seqStep p s = .next t) :
    t = s.byteOut.seqAdvance ∨
    (s.mode = .stream ∧ sinkAnswer p = .error ∧ t = s.raise .sinkWriteFailure) ∨
    (s.mode = .stream ∧ sinkAnswer p = .notYet ∧ t = s) := by
  rcases seqStep_cases h with ⟨hmode, -, rfl⟩ | ⟨hmode, -, rfl⟩ | herr | hwait
  · exact .inl (by rw [State.byteOut_buffer hmode])
  · exact .inl (by rw [State.byteOut_stream hmode])
  · exact .inr (.inl herr)
  · exact .inr (.inr hwait)

/-! What an update needs to keep the invariant. -/

/-- An update that leaves the configuration and FAULTS alone, and RESP too unless it answers OK. -/
theorem State.Inv.of_same {s t : State} (h : s.Inv) (hcfg : t.cfg = s.cfg)
    (hsurface : t.surface = s.surface) (hfaults : t.faults = s.faults)
    (hresp : t.resp = s.resp ∨ t.resp.status = 0) (hob : t.ob.wf = true)
    (hseq : t.phase ≠ .idle → t.SeqInv) : t.Inv := by
  have hw : t.w = s.w := congrArg Surface.w hsurface
  have hh : t.h = s.h := congrArg Surface.h hsurface
  have haddr : t.addr = s.addr := congrArg Surface.addr hsurface
  have hfb : t.fb = s.fb := congrArg Surface.fb hsurface
  refine ⟨?_, ?_, ?_, ?_, ?_, ?_, hob, hseq⟩
  · rw [hcfg, hw, hh, haddr]
    exact h.unconfigured
  · rw [hcfg, hw, hh]
    exact h.dimensions
  · rw [hfb, hsurface]
    exact h.fbLength
  · rw [hfaults]
    exact h.faultsBitZero
  · rcases hresp with hresp | hresp
    · rw [hresp]
      exact h.statusRange
    · rw [hresp]
      exact Nat.zero_le 7
  · rcases hresp with hresp | hresp
    · rw [hresp, hfaults]
      exact h.faultRecorded
    · exact fun hne => absurd hresp hne

theorem State.Inv.portAdvance {s : State} (h : s.Inv) : s.portAdvance.Inv := by
  refine h.of_same rfl rfl rfl (.inl rfl) (Memory.hostWrites_wf h.obCanonical _) fun hbusy => ?_
  have hs := h.sequencer hbusy
  exact ⟨hs.configured, hs.position, hs.payloadIndex, hs.runningSum, hs.room, hs.consumed⟩

theorem State.applyReset_inv {s : State} (hob : s.ob.wf = true) : s.applyReset.Inv where
  unconfigured _ := ⟨rfl, rfl, rfl⟩
  dimensions := nofun
  fbLength := rfl
  faultsBitZero := BitVec.getLsbD_zero
  statusRange := Nat.zero_le 7
  faultRecorded hne := absurd rfl hne
  obCanonical := hob
  sequencer hbusy := absurd rfl hbusy

/-- A fault's response and its FAULTS bit agree (60_exceptions.md R141). -/
theorem State.Inv.raise {s : State} (h : s.Inv) (f : EncFault) : (s.raise f).Inv where
  unconfigured := h.unconfigured
  dimensions := h.dimensions
  fbLength := h.fbLength
  faultsBitZero := by
    have hcode : f.code.toNat ≠ 0 := by have := f.code_range; omega
    rw [raise_faults, setFaultBit_getLsbD, h.faultsBitZero, decide_eq_false hcode]
    rfl
  statusRange := f.code_range.2
  faultRecorded _ := by
    have hcode : f.code.toNat < 8 := by have := f.code_range; omega
    refine ⟨rfl, ?_⟩
    rw [raise_resp, raise_faults, setFaultBit_getLsbD, decide_eq_true hcode, decide_eq_true rfl]
    exact Bool.or_true _
  obCanonical := h.obCanonical
  sequencer hbusy := absurd rfl hbusy

theorem State.Inv.respond_ok {s : State} (h : s.Inv) (hidle : s.phase = .idle) (v : BitVec 32) :
    (s.respond 0 v).Inv :=
  h.of_same rfl rfl rfl (.inr rfl) h.obCanonical fun hbusy => absurd hidle hbusy

/-- What CREATE writes (40_framebuffer.md R70). -/
theorem State.Inv.configure {s : State} (h : s.Inv) (hidle : s.phase = .idle)
    {width height : BitVec 10} (hwidth : width ≠ 0) (hheight : height ≠ 0) (address : BitVec 8) :
    (s.configure width height address).Inv where
  unconfigured := nofun
  dimensions _ := ⟨hwidth, hheight⟩
  fbLength := fbZero_length _
  faultsBitZero := h.faultsBitZero
  statusRange := h.statusRange
  faultRecorded := h.faultRecorded
  obCanonical := h.obCanonical
  sequencer hbusy := absurd hidle hbusy

theorem State.Inv.putPixel {s : State} (h : s.Inv) (hidle : s.phase = .idle) (x y : BitVec 12)
    (v : Bool) : (s.putPixel x y v).Inv where
  unconfigured := h.unconfigured
  dimensions := h.dimensions
  fbLength := (fbWrite_length _ _ _).trans h.fbLength
  faultsBitZero := h.faultsBitZero
  statusRange := h.statusRange
  faultRecorded := h.faultRecorded
  obCanonical := h.obCanonical
  sequencer hbusy := absurd hidle hbusy

theorem State.Inv.startBufferFill {s : State} (h : s.Inv) (hcfg : s.cfg = true) {cap : BitVec 28}
    (hcap : s.surface.frameLength ≤ cap.toNat) : (s.startBufferFill cap).Inv :=
  h.of_same rfl rfl rfl (.inl rfl) h.obCanonical fun _ =>
    ⟨hcfg, rfl, nofun, fun hsof => absurd rfl hsof, fun _ => hcap, nofun⟩

theorem State.Inv.startStream {s : State} (h : s.Inv) (hcfg : s.cfg = true) : s.startStream.Inv :=
  h.of_same rfl rfl rfl (.inl rfl) h.obCanonical fun _ =>
    ⟨hcfg, rfl, nofun, fun hsof => absurd rfl hsof, nofun, fun _ => List.nil_suffix⟩

/-! A byte step. -/

/-- A configured grid has payload bytes. -/
theorem State.Inv.payloadBytes_pos {s : State} (h : s.Inv) (hcfg : s.cfg = true) :
    0 < s.surface.payloadBytes := by
  obtain ⟨hw, hh⟩ := h.dimensions hcfg
  exact Surface.payloadBytes_pos hw hh

theorem State.PlacedAt.byteOut {s : State} {n : Nat} (h : s.PlacedAt n) : s.byteOut.PlacedAt n :=
  ⟨h.position, h.payloadIndex, h.runningSum⟩

/-- POS does not wrap while the frame is sent (00_scope.md R6). -/
theorem State.SeqInv.pos_succ {s : State} (h : s.SeqInv) (hbusy : s.phase ≠ .idle) :
    (s.pos + 1).toNat = s.pos.toNat + 1 := by
  have hpos := h.placedAt.lt_frame_length hbusy
  have hfits := s.surface.frame_length_lt
  change (s.pos.toNat + 1) % 2 ^ 18 = _
  omega

/-- The bytes sent, with the byte at POS, are the bytes before the next POS (43_frame_composer.md R129). -/
theorem State.SeqInv.frame_take_succ {s : State} (h : s.SeqInv) (hbusy : s.phase ≠ .idle) :
    s.surface.frame.take (s.pos + 1).toNat = s.surface.frame.take s.pos.toNat ++ [s.seqByte] := by
  rw [h.pos_succ hbusy, List.take_add_one, h.placedAt.frame_getElem? hbusy, Option.toList_some]

/-- The sequencer's part of the invariant, while the encode goes on. -/
theorem State.SeqInv.byteOut_seqAdvance {s : State} (h : s.SeqInv) (hbusy : s.phase ≠ .idle)
    (hpayload : 0 < s.surface.payloadBytes) (hbusy' : s.byteOut.seqAdvance.phase ≠ .idle) :
    s.byteOut.seqAdvance.SeqInv := by
  have hplace : s.byteOut.seqAdvance.PlacedAt (s.pos.toNat + 1) :=
    h.placedAt.byteOut.seqAdvance hbusy hpayload hbusy'
  refine ⟨by simpa using h.configured, ?_, hplace.payloadIndex, hplace.runningSum,
    by simpa using h.room, fun hmode => ?_⟩
  · rw [seqAdvance_pos, byteOut_pos, h.pos_succ hbusy]
    exact hplace.position
  · have hmode' : s.mode = .stream := by simpa using hmode
    obtain ⟨before, hbefore⟩ := h.consumed hmode'
    rw [seqAdvance_snk, seqAdvance_pos, seqAdvance_surface, byteOut_surface, byteOut_pos,
      h.frame_take_succ hbusy, byteOut_stream hmode', snkPut_snk, ← hbefore]
    exact ⟨before, (List.append_assoc _ _ _).symm⟩

theorem State.Inv.byteOut_ob_wf {s : State} (h : s.Inv) : s.byteOut.ob.wf = true := by
  cases hmode : s.mode with
  | bufferFill =>
    rw [byteOut_buffer hmode]
    exact Memory.write_wf h.obCanonical (s.pos.isLt.trans (by decide)) _
  | stream =>
    rw [byteOut_stream hmode]
    exact h.obCanonical

theorem State.Inv.byteOut_seqAdvance {s : State} (h : s.Inv) (hbusy : s.phase ≠ .idle) :
    s.byteOut.seqAdvance.Inv := by
  have hs := h.sequencer hbusy
  refine h.of_same (by simp) (by simp) (by simp) ?_ (by simpa using h.byteOut_ob_wf)
    (hs.byteOut_seqAdvance hbusy (h.payloadBytes_pos hs.configured))
  rcases State.seqAdvance_response (s := s.byteOut) hbusy with
    ⟨-, hresp, -⟩ | ⟨-, -, -, hresp, -⟩
  · exact .inl hresp
  · exact .inr (by rw [hresp])

/-! The whole step. -/

theorem State.Inv.exec {i : Instr} {s t : State} (h : s.Inv) (hidle : s.phase = .idle)
    (hexec : exec i s = .next t) : t.Inv := by
  rcases exec_cases hexec with ⟨f, rfl⟩ | ⟨width, height, address, -, -, -, hwidth, hheight, rfl⟩ |
    ⟨x, y, v, -, -, ⟨-, rfl⟩ | ⟨-, rfl⟩⟩ | ⟨-, -, rfl⟩ | ⟨-, -, rfl⟩ | ⟨cap, -, hcfg, hcap, rfl⟩ |
    ⟨-, hcfg, rfl⟩
  · exact h.raise f
  · exact (h.configure hidle hwidth hheight address).respond_ok hidle 0
  · exact h.respond_ok hidle 0
  · exact (h.putPixel hidle x y v).respond_ok hidle 0
  · exact h.respond_ok hidle _
  · exact h.respond_ok hidle _
  · exact h.startBufferFill hcfg hcap
  · exact h.startStream hcfg

theorem State.Inv.cycle {p : PortInputs} {s t : State} (h : s.Inv) (hcycle : cycle p s = .next t) :
    t.Inv := by
  rcases cycle_cases hcycle with ⟨-, rfl⟩ | ⟨-, -, -, rfl⟩ | ⟨c, i, -, hidle, -, -, hexec⟩ |
    ⟨c, why, -, -, -, -, rfl⟩ | ⟨-, hbusy, hseq⟩
  · exact State.applyReset_inv h.obCanonical
  · exact h
  · exact h.exec hidle hexec
  · exact h.raise _
  · rcases seqStep_byteOut_cases hseq with rfl | ⟨-, -, rfl⟩ | ⟨-, -, rfl⟩
    · exact h.byteOut_seqAdvance hbusy
    · exact h.raise _
    · exact h

theorem State.Inv.step {s t : State} (h : s.Inv) (hstep : step s = .next t) : t.Inv :=
  h.portAdvance.cycle hstep

/-! OB while an encode fills it. -/

theorem State.obHoldsFrameSoFar_of_idle {s : State} (hidle : s.phase = .idle) :
    s.ObHoldsFrameSoFar := fun hbusy => absurd hidle hbusy

/-- HOST's writes of a step in which it keeps off the frame (70_reset_and_hazards.md R164). -/
theorem State.ObHoldsFrameSoFar.portAdvance {s : State} (h : s.ObHoldsFrameSoFar) (hinv : s.Inv)
    (hkeeps : KeepsOff s.portNow s.surface.frame.length) : s.portAdvance.ObHoldsFrameSoFar := by
  intro hbusy hmode o ho
  have hpos : s.pos.toNat < s.surface.frame.length :=
    (hinv.sequencer hbusy).placedAt.lt_frame_length hbusy
  have hoff : ∀ c ∈ s.portNow.obWrites, c.1.toNat ≠ o :=
    fun c hc => ((ho.trans hpos).trans_le (hkeeps c hc)).ne'
  rw [portAdvance_ob, Memory.read_hostWrites_other _ hoff]
  exact h hbusy hmode o ho

/-- A byte into OB is the frame's byte at POS (43_frame_composer.md R127, R131). -/
theorem State.SeqInv.read_byteOut {s : State} (h : s.SeqInv) (hbusy : s.phase ≠ .idle)
    (hmode : s.mode = .bufferFill) :
    s.byteOut.ob.read s.pos.toNat = s.surface.frame[s.pos.toNat]? := by
  rw [byteOut_buffer hmode, obPut_ob, Memory.read_write_same, h.placedAt.frame_getElem? hbusy]

/-- A byte into OB leaves every other offset alone (20_memory.md R35). -/
theorem State.read_byteOut_other {s : State} {o : Nat} (ho : o ≠ s.pos.toNat) :
    s.byteOut.ob.read o = s.ob.read o := by
  cases hmode : s.mode with
  | bufferFill => rw [byteOut_buffer hmode, obPut_ob, Memory.read_write_other _ _ ho]
  | stream => rw [byteOut_stream hmode, snkPut_ob]

theorem State.ObHoldsFrameSoFar.byteOut_seqAdvance {s : State} (h : s.ObHoldsFrameSoFar)
    (hinv : s.Inv) (hbusy : s.phase ≠ .idle) : s.byteOut.seqAdvance.ObHoldsFrameSoFar := by
  intro _ hmode o ho
  have hs := hinv.sequencer hbusy
  have hmode' : s.mode = .bufferFill := by simpa using hmode
  rw [seqAdvance_pos, byteOut_pos, hs.pos_succ hbusy] at ho
  rw [seqAdvance_ob, seqAdvance_surface, byteOut_surface]
  rcases Nat.lt_succ_iff_lt_or_eq.1 ho with hlt | rfl
  · rw [State.read_byteOut_other hlt.ne]
    exact h hbusy hmode' o hlt
  · exact hs.read_byteOut hbusy hmode'

/-- A command writes nothing to OB, and an encode starts with no byte in it. -/
theorem State.obHoldsFrameSoFar_of_exec {i : Instr} {s t : State} (hidle : s.phase = .idle)
    (hexec : exec i s = .next t) : t.ObHoldsFrameSoFar := by
  rcases exec_cases hexec with ⟨f, rfl⟩ | ⟨width, height, address, -, -, -, -, -, rfl⟩ |
    ⟨x, y, v, -, -, ⟨-, rfl⟩ | ⟨-, rfl⟩⟩ | ⟨-, -, rfl⟩ | ⟨-, -, rfl⟩ | ⟨cap, -, -, -, rfl⟩ |
    ⟨-, -, rfl⟩
  · exact State.obHoldsFrameSoFar_of_idle rfl
  · exact State.obHoldsFrameSoFar_of_idle hidle
  · exact State.obHoldsFrameSoFar_of_idle hidle
  · exact State.obHoldsFrameSoFar_of_idle hidle
  · exact State.obHoldsFrameSoFar_of_idle hidle
  · exact State.obHoldsFrameSoFar_of_idle hidle
  · exact fun _ _ o ho => absurd ho (Nat.not_lt_zero o)
  · exact nofun

theorem State.ObHoldsFrameSoFar.cycle {p : PortInputs} {s t : State} (h : s.ObHoldsFrameSoFar)
    (hinv : s.Inv) (hcycle : cycle p s = .next t) : t.ObHoldsFrameSoFar := by
  rcases cycle_cases hcycle with ⟨-, rfl⟩ | ⟨-, -, -, rfl⟩ | ⟨c, i, -, hidle, -, -, hexec⟩ |
    ⟨c, why, -, -, -, -, rfl⟩ | ⟨-, hbusy, hseq⟩
  · exact State.obHoldsFrameSoFar_of_idle rfl
  · exact h
  · exact State.obHoldsFrameSoFar_of_exec hidle hexec
  · exact State.obHoldsFrameSoFar_of_idle rfl
  · rcases seqStep_byteOut_cases hseq with rfl | ⟨-, -, rfl⟩ | ⟨-, -, rfl⟩
    · exact h.byteOut_seqAdvance hinv hbusy
    · exact State.obHoldsFrameSoFar_of_idle rfl
    · exact h

/-- Settles O45: the environment's part of the step keeps the invariant, and so does ENC's. -/
theorem stepKeepsTheInvariant : Obligations.StepKeepsTheInvariant := by
  intro s t hinv hstep
  exact ⟨hinv.step hstep, fun hob hkeeps =>
    (hob.portAdvance hinv hkeeps).cycle hinv.portAdvance hstep⟩

/-- Settles O44: the machine right after reset is what an asserted `rst` makes of it. -/
theorem resetMeetsTheInvariant : Obligations.ResetMeetsTheInvariant :=
  ⟨State.applyReset_inv (s := State.reset) rfl, State.obHoldsFrameSoFar_of_idle rfl⟩

end Sys2Proof.Machine
end

section
/-! PROOFS. One step of a busy block, said forwards: under the invariant the byte port is always free, and SINK's
answer decides in stream mode (43_frame_composer.md R127, R128; 20_memory.md R37). -/

namespace Sys2Proof.Machine

/-- The byte port is always free: `POS < L <= CAPR` (43_frame_composer.md R127). -/
theorem State.SeqInv.pos_lt_capr {s : State} (h : s.SeqInv) (hbusy : s.phase ≠ .idle)
    (hmode : s.mode = .bufferFill) : s.pos.toNat < s.capr.toNat := by
  have hpos := h.placedAt.lt_frame_length hbusy
  rw [← s.surface.frameLength_eq_length] at hpos
  exact hpos.trans_le (h.room hmode)

section

variable {p : PortInputs} {s : State}

theorem seqStep_buffer (h : s.SeqInv) (hbusy : s.phase ≠ .idle) (hmode : s.mode = .bufferFill) :
    seqStep p s = .next s.byteOut.seqAdvance := by
  rw [seqStep, emitThen_buffer hmode (h.pos_lt_capr hbusy hmode), State.byteOut_buffer hmode]

theorem seqStep_accept (hmode : s.mode = .stream) (haccept : sinkAnswer p = .accept) :
    seqStep p s = .next s.byteOut.seqAdvance := by
  rw [seqStep, emitThen_accept hmode haccept, State.byteOut_stream hmode]

theorem seqStep_error (hmode : s.mode = .stream) (herror : sinkAnswer p = .error) :
    seqStep p s = .next (s.raise .sinkWriteFailure) :=
  emitThen_error hmode herror

theorem seqStep_notYet (hmode : s.mode = .stream) (hwait : sinkAnswer p = .notYet) :
    seqStep p s = .next s :=
  emitThen_notYet hmode hwait

theorem seqStep_goes_on (h : s.SeqInv) (hbusy : s.phase ≠ .idle) : GoesOn (seqStep p s) := by
  cases hmode : s.mode with
  | bufferFill => exact ⟨_, seqStep_buffer h hbusy hmode⟩
  | stream =>
    cases hanswer : sinkAnswer p with
    | accept => exact ⟨_, seqStep_accept hmode hanswer⟩
    | error => exact ⟨_, seqStep_error hmode hanswer⟩
    | notYet => exact ⟨_, seqStep_notYet hmode hanswer⟩

theorem acceptWord_goes_on (cmd : CmdWord) (s : State) : GoesOn (acceptWord cmd s) := by
  unfold acceptWord
  split
  · exact exec_goes_on _ s
  · exact ⟨_, rfl⟩

theorem cycle_goes_on (h : s.Inv) : GoesOn (cycle p s) := by
  by_cases hrst : p.rst = true
  · exact ⟨_, cycle_reset hrst⟩
  · have hrst : p.rst = false := by simpa using hrst
    by_cases hidle : s.phase = .idle
    · cases hcmd : p.cmd with
      | none => exact ⟨_, cycle_wait hrst hidle hcmd⟩
      | some cmd =>
        rw [cycle_accept hrst hidle hcmd]
        exact acceptWord_goes_on cmd s
    · rw [cycle_busy hrst hidle]
      exact seqStep_goes_on (h.sequencer hidle) hidle

end

/-- Settles O46: a command never stops, nor does a sequencer step under the invariant. -/
theorem invariantStatesGoOn : Obligations.InvariantStatesGoOn :=
  fun _ hinv => cycle_goes_on hinv.portAdvance

/-- Settles O34: the byte that the place of the registers calls for. -/
theorem sequencerEmitsFrameAtPos : Obligations.SequencerEmitsFrameAtPos := by
  intro s hinv hbusy
  have hplace := (hinv.sequencer hbusy).placedAt
  exact ⟨hplace.position, hplace.lt_frame_length hbusy, hplace.frame_getElem? hbusy⟩

/-! A step of the machine while it is busy. -/

section

variable {s : State}

theorem step_busy (hbusy : s.phase ≠ .idle) (hrst : s.portNow.rst = false) :
    step s = seqStep s.portNow s.portAdvance :=
  cycle_busy hrst hbusy

theorem step_buffer (hinv : s.Inv) (hbusy : s.phase ≠ .idle) (hmode : s.mode = .bufferFill)
    (hrst : s.portNow.rst = false) : step s = .next s.portAdvance.byteOut.seqAdvance :=
  (step_busy hbusy hrst).trans (seqStep_buffer (hinv.portAdvance.sequencer hbusy) hbusy hmode)

theorem step_accept (hbusy : s.phase ≠ .idle) (hmode : s.mode = .stream)
    (hrst : s.portNow.rst = false) (haccept : sinkAnswer s.portNow = .accept) :
    step s = .next s.portAdvance.byteOut.seqAdvance :=
  (step_busy hbusy hrst).trans (seqStep_accept hmode haccept)

theorem step_error (hbusy : s.phase ≠ .idle) (hmode : s.mode = .stream)
    (hrst : s.portNow.rst = false) (herror : sinkAnswer s.portNow = .error) :
    step s = .next (s.portAdvance.raise .sinkWriteFailure) :=
  (step_busy hbusy hrst).trans (seqStep_error hmode herror)

theorem step_notYet (hbusy : s.phase ≠ .idle) (hmode : s.mode = .stream)
    (hrst : s.portNow.rst = false) (hwait : sinkAnswer s.portNow = .notYet) :
    step s = .next s.portAdvance :=
  (step_busy hbusy hrst).trans (seqStep_notYet hmode hwait)

/-- ENC's byte goes to its own offset of OB, over HOST's writes of the step. -/
theorem State.Inv.read_step_buffer (hinv : s.Inv) (hbusy : s.phase ≠ .idle)
    (hmode : s.mode = .bufferFill) :
    s.portAdvance.byteOut.seqAdvance.ob.read s.pos.toNat = s.surface.frame[s.pos.toNat]? := by
  rw [State.seqAdvance_ob]
  exact (hinv.portAdvance.sequencer hbusy).read_byteOut hbusy hmode

theorem read_step_other {o : Nat} (ho : o ≠ s.pos.toNat) :
    s.portAdvance.byteOut.seqAdvance.ob.read o =
      (s.ob.hostWrites s.portNow.obWrites).read o := by
  rw [State.seqAdvance_ob, State.read_byteOut_other (s := s.portAdvance) ho, State.portAdvance_ob]

end

/-- Settles O35, by the byte step. -/
theorem bufferStepWritesOneByte : Obligations.BufferStepWritesOneByte := by
  intro s hinv hbusy hmode hrst
  refine ⟨_, step_buffer hinv hbusy hmode hrst, by simp, hinv.read_step_buffer hbusy hmode,
    fun o ho => read_step_other ho, ?_, by simp, by simp, by simp⟩
  simp [State.byteOut_buffer (s := s.portAdvance) hmode]

/-- Settles O36, by SINK's answer. -/
theorem streamStepFollowsTheSink : Obligations.StreamStepFollowsTheSink := by
  intro s hinv hbusy hmode hrst
  refine ⟨fun herr hready => ?accept, fun herr => ?error, fun herr hready => ?wait⟩
  case accept =>
    have haccept := (sinkAnswer_accept_iff s.portNow).2 ⟨herr, hready⟩
    refine ⟨_, s.portAdvance.seqByte, step_accept hbusy hmode hrst haccept,
      (hinv.sequencer hbusy).placedAt.frame_getElem? hbusy, ?_, by simp, ?_, by simp, by simp,
      by simp⟩
    · simp [State.byteOut_stream (s := s.portAdvance) hmode]
    · simp [State.byteOut_stream (s := s.portAdvance) hmode]
  case error => exact step_error hbusy hmode hrst ((sinkAnswer_error_iff s.portNow).2 herr)
  case wait =>
    exact step_notYet hbusy hmode hrst ((sinkAnswer_notYet_iff s.portNow).2 ⟨herr, hready⟩)

/-! The output ports. -/

section

variable {s : State} {p : PortInputs}

theorem State.stBusy_iff (s : State) : s.stBusy = true ↔ s.phase ≠ .idle := decide_eq_true_iff

theorem State.ports_of_reset (hrst : p.rst = true) :
    s.cmdReady p = false ∧ s.sinkOffer p = none ∧ s.obDrive p = none := by
  simp [cmdReady, sinkOffer, obDrive, hrst]

theorem State.ports_of_idle (hrst : p.rst = false) (hidle : s.phase = .idle) :
    s.cmdReady p = true ∧ s.sinkOffer p = none ∧ s.obDrive p = none := by
  simp [cmdReady, sinkOffer, obDrive, stBusy, hrst, hidle]

theorem State.cmdReady_of_busy (hbusy : s.phase ≠ .idle) : s.cmdReady p = false := by
  simp [cmdReady, stBusy, hbusy]

theorem State.ports_of_stream (hrst : p.rst = false) (hbusy : s.phase ≠ .idle)
    (hmode : s.mode = .stream) : s.obDrive p = none ∧ s.sinkOffer p = some s.seqByte := by
  simp [sinkOffer, obDrive, stBusy, hrst, hbusy, hmode]

theorem State.ports_of_buffer (hrst : p.rst = false) (hbusy : s.phase ≠ .idle)
    (hmode : s.mode = .bufferFill) :
    s.sinkOffer p = none ∧ s.obDrive p = some (s.pos.setWidth 28, s.seqByte) := by
  simp [sinkOffer, obDrive, stBusy, hrst, hbusy, hmode]

end

/-- Settles O43: the byte on a port is the frame's byte at POS. -/
theorem outputPortsCarryTheFrame : Obligations.OutputPortsCarryTheFrame := by
  refine ⟨fun s => ⟨rfl, s.stBusy_iff, rfl⟩, fun s p hinv =>
    ⟨State.ports_of_reset, State.ports_of_idle, fun hrst hbusy => ?busy⟩⟩
  have hbyte := (hinv.sequencer hbusy).placedAt.frame_getElem? hbusy
  refine ⟨State.cmdReady_of_busy hbusy, fun hmode => ?stream, fun hmode => ?buffer⟩
  case stream =>
    obtain ⟨hdrive, hoffer⟩ := State.ports_of_stream hrst hbusy hmode
    exact ⟨hdrive, hoffer.trans hbyte.symm, by rw [hoffer]; exact Option.some_ne_none _⟩
  case buffer =>
    obtain ⟨hoffer, hdrive⟩ := State.ports_of_buffer hrst hbusy hmode
    exact ⟨hoffer, _, _, hdrive, BitVec.toNat_setWidth_of_le (by decide), hbyte⟩

end Sys2Proof.Machine
end

section
/-! PROOFS. What a step does whatever the command is: which command it runs (00_scope.md R9, 10_state.md R18), how it
answers (R17), what it writes to FAULTS and FB, and that it reads neither FAULTS nor OB. -/

namespace Sys2Proof.Machine

/-! Which command a step runs. -/

section

variable {s : State} {cmd : CmdWord}

theorem step_of_decode {i : Instr} (hidle : s.phase = .idle) (hrst : s.portNow.rst = false)
    (hcmd : s.portNow.cmd = some cmd) (hdec : decode cmd = .command i) :
    step s = exec i s.portAdvance := by
  have haccept : step s = acceptWord cmd s.portAdvance := cycle_accept hrst hidle hcmd
  rw [haccept, acceptWord, hdec]

theorem step_of_illegal {why : Illegal} (hidle : s.phase = .idle) (hrst : s.portNow.rst = false)
    (hcmd : s.portNow.cmd = some cmd) (hdec : decode cmd = .illegal why) :
    step s = .next (s.portAdvance.raise (.illegalCommand cmd)) := by
  have haccept : step s = acceptWord cmd s.portAdvance := cycle_accept hrst hidle hcmd
  rw [haccept, acceptWord, hdec]

end

/-- The forms of R62 are no command's (30_encoding.md R62). -/
theorem exists_decode_illegal {cmd : CmdWord}
    (h : opField cmd = 0x0#4 ∨ 0x7#4 ≤ opField cmd ∨
      (opField cmd = 0x2#4 ∧ cmd.extractLsb' 0 3 ≠ 0#3) ∨
      ((opField cmd = 0x3#4 ∨ opField cmd = 0x4#4 ∨ opField cmd = 0x6#4) ∧
        cmd.extractLsb' 0 28 ≠ 0#28)) :
    ∃ why, decode cmd = .illegal why := by
  cases hdec : decode cmd with
  | illegal why => exact ⟨why, rfl⟩
  | command i =>
    exfalso
    rcases decode_command_cases hdec with ⟨hop, -⟩ | ⟨hop, hres, -⟩ | ⟨hop, hres, -⟩ |
      ⟨hop, hres, -⟩ | ⟨hop, -⟩ | ⟨hop, hres, -⟩ <;> rw [hop] at h
    · exact absurd h (by simp)
    · exact absurd h (by simp [hres])
    · exact absurd h (by simp [hres])
    · exact absurd h (by simp [hres])
    · exact absurd h (by simp)
    · exact absurd h (by simp [hres])

/-- At an idle block a fault writes FAULTS and the response alone. -/
theorem State.raise_of_idle {s : State} (hidle : s.phase = .idle) (f : EncFault) :
    s.raise f = { s with
      faults := setFaultBit s.faults f.code
      resp := ⟨f.code, 0⟩
      responses := s.responses ++ [⟨f.code, 0⟩] } := by
  rw [raise, ← hidle]
  rfl

/-- Settles O6: such a word decodes to illegal. -/
theorem illegalWordRaises : Obligations.IllegalWordRaises := by
  intro s cmd hidle hrst hcmd hword
  obtain ⟨why, hdec⟩ := exists_decode_illegal hword
  rw [step_of_illegal hidle hrst hcmd hdec, State.raise_of_idle (s := s.portAdvance) hidle]
  rfl

/-- Settles O7: the acceptance of a command's word. -/
theorem stepRunsTheDecodedCommand : Obligations.StepRunsTheDecodedCommand := by
  intro s cmd i hidle hrst hcmd hdec
  refine ⟨step_of_decode hidle hrst hcmd hdec, ?_⟩
  simp only [State.portAdvance, List.isEmpty_iff]

theorem decode_tableWord {nbits w : Nat} {i : Instr} (h : decodeTableWord nbits w = some i) :
    decode (tableWord nbits w) = .command i := by
  rw [decodeTableWord] at h
  cases hdec : decode (tableWord nbits w) with
  | command j =>
    rw [hdec] at h
    rw [Option.some.inj h]
  | illegal why =>
    rw [hdec] at h
    nomatch h

/-- Settles O8: the placed element is used up, and it writes nothing to OB. -/
theorem fetchWordIsRunNext : Obligations.FetchWordIsRunNext :=
  fun s w _ hdec => step_of_decode (s := s.withFetchWord 32 w) rfl rfl rfl (decode_tableWord hdec)

/-- Settles O9: with no word presented ENC keeps its state. -/
theorem idleBlockWaits : Obligations.IdleBlockWaits :=
  fun _ hidle hrst hcmd => cycle_wait hrst hidle hcmd

theorem cycle_busy_congr_cmd {p : PortInputs} {s : State} (hbusy : s.phase ≠ .idle)
    (c : Option CmdWord) : cycle { p with cmd := c } s = cycle p s := by
  by_cases hrst : p.rst = true
  · rw [cycle_reset hrst, cycle_reset (p := { p with cmd := c }) hrst]
  · have hrst : p.rst = false := by simpa using hrst
    rw [cycle_busy hrst hbusy, cycle_busy (p := { p with cmd := c }) hrst hbusy]
    rfl

/-- Settles O10: a busy block's step does not look at the command port. -/
theorem busyBlockIgnoresCommands : Obligations.BusyBlockIgnoresCommands := by
  intro s p rest c hbusy
  exact (cycle_busy_congr_cmd (s := { s with inputs := p :: rest }.portAdvance) hbusy c).symm

/-- Settles O11: the reset values. -/
theorem resetInputResets : Obligations.ResetInputResets :=
  fun s hrst => ⟨s.portAdvance.applyReset, cycle_reset hrst, rfl, rfl, rfl, rfl, rfl, rfl, rfl, rfl, rfl,
    rfl, rfl, fun _ => rfl⟩

/-! How a step answers. -/

/-- How ENC handles a command in one step: a fault, its end with an answer, or its progress without one
(10_state.md R17, 60_exceptions.md R141). -/
inductive State.Handles (s : State) : State → Prop
  | faulted (f : EncFault) : s.Handles (s.raise f)
  | ended {t : State} (idle : t.phase = .idle) (faults : t.faults = s.faults)
      (responses : t.responses = s.responses ++ [t.resp]) : s.Handles t
  | inProgress {t : State} (busy : t.phase ≠ .idle) (faults : t.faults = s.faults)
      (responses : t.responses = s.responses) (resp : t.resp = s.resp) : s.Handles t

theorem exec_handles {i : Instr} {s t : State} (hidle : s.phase = .idle)
    (h : exec i s = .next t) : s.Handles t := by
  rcases exec_cases h with ⟨f, rfl⟩ | ⟨width, height, address, -, -, -, -, -, rfl⟩ |
    ⟨x, y, v, -, -, ⟨-, rfl⟩ | ⟨-, rfl⟩⟩ | ⟨-, -, rfl⟩ | ⟨-, -, rfl⟩ | ⟨cap, -, -, -, rfl⟩ | ⟨-, -, rfl⟩
  · exact .faulted f
  · exact .ended hidle rfl rfl
  · exact .ended hidle rfl rfl
  · exact .ended hidle rfl rfl
  · exact .ended hidle rfl rfl
  · exact .ended hidle rfl rfl
  · exact .inProgress nofun rfl rfl rfl
  · exact .inProgress nofun rfl rfl rfl

theorem seqStep_handles {p : PortInputs} {s t : State} (hbusy : s.phase ≠ .idle)
    (h : seqStep p s = .next t) : s.Handles t := by
  rcases seqStep_byteOut_cases h with rfl | ⟨-, -, rfl⟩ | ⟨-, -, rfl⟩
  · have hfaults : s.byteOut.seqAdvance.faults = s.faults := by simp
    rcases State.seqAdvance_response (s := s.byteOut) hbusy with
      ⟨hbusy', hresp, hresponses⟩ | ⟨-, -, hidle, hresp, hresponses⟩
    · exact .inProgress hbusy' hfaults hresponses hresp
    · exact .ended hidle hfaults (by rw [hresponses, hresp, State.byteOut_responses])
  · exact .faulted _
  · exact .inProgress hbusy rfl rfl rfl

/-- Out of reset ENC waits, or it handles the command presented or in progress. -/
theorem cycle_waits_or_handles {p : PortInputs} {s t : State} (hrst : p.rst = false)
    (h : cycle p s = .next t) :
    (s.phase = .idle ∧ p.cmd = none ∧ t = s) ∨
      ((s.phase ≠ .idle ∨ p.cmd ≠ none) ∧ s.Handles t) := by
  rcases cycle_cases h with ⟨hreset, -⟩ | ⟨-, hidle, hcmd, rfl⟩ | ⟨c, i, -, hidle, hcmd, -, hexec⟩ |
    ⟨c, why, -, -, hcmd, -, rfl⟩ | ⟨-, hbusy, hseq⟩
  · exact absurd (hrst.symm.trans hreset) Bool.false_ne_true
  · exact .inl ⟨hidle, hcmd, rfl⟩
  · exact .inr ⟨.inr (hcmd ▸ nofun), exec_handles hidle hexec⟩
  · exact .inr ⟨.inr (hcmd ▸ nofun), .faulted _⟩
  · exact .inr ⟨.inl hbusy, seqStep_handles hbusy hseq⟩

/-- Settles O54, by how ENC handles the command. -/
theorem oneResponsePerCommand : Obligations.OneResponsePerCommand := by
  intro s t hstep hrst
  rcases cycle_waits_or_handles hrst hstep with ⟨hidle, hcmd, rfl⟩ | ⟨hbusy, hhandles⟩
  · refine ⟨fun hbusy => ?_, fun _ _ => ⟨rfl, rfl⟩⟩
    rcases hbusy with hbusy | hcmd'
    · exact absurd hidle hbusy
    · exact absurd hcmd hcmd'
  · refine ⟨fun _ => ?_, fun hidle hcmd => ?_⟩
    case refine_2 =>
      rcases hbusy with hbusy | hcmd'
      · exact absurd hidle hbusy
      · exact absurd hcmd hcmd'
    cases hhandles with
    | faulted f => exact .inl ⟨rfl, rfl⟩
    | ended hidle _ hresponses => exact .inl ⟨hidle, hresponses⟩
    | inProgress hbusy' _ hresponses hresp => exact .inr ⟨hbusy', hresponses, hresp⟩

theorem cycle_faults {p : PortInputs} {s t : State} (hrst : p.rst = false)
    (h : cycle p s = .next t) : t.faults = s.faults ∨ ∃ f, t = s.raise f := by
  rcases cycle_waits_or_handles hrst h with ⟨-, -, rfl⟩ | ⟨-, hhandles⟩
  · exact .inl rfl
  · cases hhandles with
    | faulted f => exact .inr ⟨f, rfl⟩
    | ended _ hfaults _ => exact .inl hfaults
    | inProgress _ hfaults _ _ => exact .inl hfaults

/-- Settles O49: FAULTS changes only in `raise`, which adds the bit of its response's code. -/
theorem faultBitsAreSticky : Obligations.FaultBitsAreSticky := by
  intro s t hstep hrst
  rcases cycle_faults hrst hstep with hfaults | ⟨f, rfl⟩
  · rw [hfaults]
    exact ⟨fun _ => id, fun c hset hclear => absurd (hclear.symm.trans hset) Bool.false_ne_true⟩
  · rw [State.raise_faults, State.portAdvance_faults]
    refine ⟨fun c hset => ?_, fun c hset hclear => ?_⟩
    · rw [setFaultBit_getLsbD, hset, Bool.true_or]
    · rw [setFaultBit_getLsbD, hclear, Bool.false_or, Bool.and_eq_true, decide_eq_true_eq,
        decide_eq_true_eq] at hset
      obtain ⟨-, rfl⟩ := hset
      exact ⟨rfl, f.code_range.1, f.code_range.2, rfl⟩

/-! What a step writes to FB. -/

theorem exec_fb {i : Instr} {s t : State} (h : exec i s = .next t) :
    t.fb = s.fb ∨ (t.resp = ⟨0, 0⟩ ∧
      ((s.cfg = false ∧ ∃ width height address, i = .create width height address) ∨
        (s.cfg = true ∧ ∃ x y v, i = .setPixel x y v ∧
          x.toNat < s.w.toNat ∧ y.toNat < s.h.toNat))) := by
  rcases exec_cases h with ⟨f, rfl⟩ | ⟨width, height, address, rfl, hcfg, -, -, -, rfl⟩ |
    ⟨x, y, v, rfl, hcfg, ⟨-, rfl⟩ | ⟨hclips, rfl⟩⟩ | ⟨-, -, rfl⟩ | ⟨-, -, rfl⟩ | ⟨cap, -, -, -, rfl⟩ |
    ⟨-, -, rfl⟩
  case inr.inl => exact .inr ⟨rfl, .inl ⟨hcfg, width, height, address, rfl⟩⟩
  case inr.inr.inl.inr =>
    exact .inr ⟨rfl, .inr ⟨hcfg, x, y, v, rfl, (s.surface.clips_eq_false_iff x y).1 hclips⟩⟩
  all_goals exact .inl rfl

theorem seqStep_fb {p : PortInputs} {s t : State} (h : seqStep p s = .next t) : t.fb = s.fb := by
  rcases seqStep_byteOut_cases h with rfl | ⟨-, -, rfl⟩ | ⟨-, -, rfl⟩
  · exact State.seqAdvance_fb _
  · rfl
  · rfl

/-- Settles O48: no wait, illegal word or sequencer step writes FB, and of the commands only two do. -/
theorem onlyCreateAndSetPixelChangeFb : Obligations.OnlyCreateAndSetPixelChangeFb := by
  intro s t hstep hrst hne
  rcases cycle_cases hstep with ⟨hreset, -⟩ | ⟨-, -, -, rfl⟩ | ⟨c, i, -, hidle, hcmd, hdec, hexec⟩ |
    ⟨c, why, -, -, -, -, rfl⟩ | ⟨-, -, hseq⟩
  · exact absurd (hrst.symm.trans hreset) Bool.false_ne_true
  · exact absurd rfl hne
  · rcases exec_fb hexec with hfb | ⟨hresp, hcommand⟩
    · exact absurd hfb hne
    · refine ⟨hidle, hresp, c, hcmd, ?_⟩
      rcases hcommand with ⟨hcfg, w, h, a, rfl⟩ | ⟨hcfg, x, y, v, rfl, hin⟩
      · exact .inl ⟨hcfg, w, h, a, hdec⟩
      · exact .inr ⟨hcfg, x, y, v, hdec, hin⟩
  · exact absurd rfl hne
  · exact absurd (seqStep_fb hseq) hne

/-! HOST's writes to OB. -/

theorem Memory.hostWrites_append (m : Memory) (ws ws' : List (BitVec 28 × Byte)) :
    m.hostWrites (ws ++ ws') = (m.hostWrites ws).hostWrites ws' := by
  induction ws generalizing m with
  | nil => rfl
  | cons c ws ih => exact ih _

/-- Settles O52: the writes after the last one to the offset leave it alone. -/
theorem hostWritesLandAtTheirOffsets : Obligations.HostWritesLandAtTheirOffsets := by
  intro m ws a
  have hoff {ws : List (BitVec 28 × Byte)} (h : ∀ c ∈ ws, c.1 ≠ a) : ∀ c ∈ ws, c.1.toNat ≠ a.toNat :=
    fun c hc heq => h c hc (BitVec.eq_of_toNat_eq heq)
  refine ⟨fun hws => Memory.read_hostWrites_other m (hoff hws), ?_⟩
  rintro pre b post rfl hpost
  rw [Memory.hostWrites_append, Memory.hostWrites_cons, Memory.read_hostWrites_other _ (hoff hpost),
    Memory.read_write_same]

/-! FAULTS and OB are read by no step. -/

/-- The state with other contents in FAULTS and OB. -/
def State.withFaultsOb (s : State) (f : BitVec 8) (m : Memory) : State := { s with faults := f, ob := m }

section

variable (s : State) (f : BitVec 8) (m : Memory)

@[simp] theorem State.withFaultsOb_phase : (s.withFaultsOb f m).phase = s.phase := rfl
@[simp] theorem State.withFaultsOb_nib : (s.withFaultsOb f m).nib = s.nib := rfl
@[simp] theorem State.withFaultsOb_k : (s.withFaultsOb f m).k = s.k := rfl
@[simp] theorem State.withFaultsOb_surface : (s.withFaultsOb f m).surface = s.surface := rfl

end

/-- With other contents in FAULTS and OB the update `u` does the same but for them, and what it leaves in
either depends on its own old contents alone (10_state.md R15, 20_memory.md R34). -/
def State.Blind (u : State → State) : Prop :=
  ∀ s f m, ∃ g m', u (s.withFaultsOb f m) = (u s).withFaultsOb g m' ∧
    (f = s.faults → g = (u s).faults) ∧ (m = s.ob → m' = (u s).ob)

namespace State.Blind

theorem comp {u v : State → State} (hu : Blind u) (hv : Blind v) : Blind fun s => u (v s) := by
  intro s f m
  obtain ⟨g, m', hvs, hg, hm'⟩ := hv s f m
  obtain ⟨g', m'', hus, hg', hm''⟩ := hu (v s) g m'
  exact ⟨g', m'', (congrArg u hvs).trans hus, hg' ∘ hg, hm'' ∘ hm'⟩

theorem refl : Blind fun s => s := fun _ f m => ⟨f, m, rfl, fun h => h, fun h => h⟩

theorem respond (v : BitVec 4) (x : BitVec 32) : Blind fun s => s.respond v x :=
  fun _ f m => ⟨f, m, rfl, id, id⟩

theorem raise (e : EncFault) : Blind fun s => s.raise e :=
  fun _ f m => ⟨setFaultBit f e.code, m, rfl, congrArg (setFaultBit · e.code), id⟩

theorem configure (width height : BitVec 10) (address : BitVec 8) :
    Blind fun s => s.configure width height address :=
  fun _ f m => ⟨f, m, rfl, id, id⟩

theorem putPixel (x y : BitVec 12) (v : Bool) : Blind fun s => s.putPixel x y v :=
  fun _ f m => ⟨f, m, rfl, id, id⟩

theorem startBufferFill (cap : BitVec 28) : Blind fun s => s.startBufferFill cap :=
  fun _ f m => ⟨f, m, rfl, id, id⟩

theorem startStream : Blind State.startStream := fun _ f m => ⟨f, m, rfl, id, id⟩

theorem applyReset : Blind State.applyReset := fun _ _ m => ⟨0, m, rfl, fun _ => rfl, id⟩

theorem byteOut : Blind State.byteOut := by
  intro s f m
  cases hmode : s.mode with
  | bufferFill =>
    refine ⟨f, m.write s.pos.toNat s.seqByte, ?_, id, ?_⟩
    · rw [byteOut_buffer hmode, byteOut_buffer (s := s.withFaultsOb f m) hmode]
      rfl
    · rw [byteOut_buffer hmode]
      exact congrArg (Memory.write · s.pos.toNat s.seqByte)
  | stream =>
    refine ⟨f, m, ?_, id, ?_⟩
    · rw [byteOut_stream hmode, byteOut_stream (s := s.withFaultsOb f m) hmode]
      rfl
    · rw [byteOut_stream hmode]
      exact id

theorem seqAdvance : Blind State.seqAdvance := by
  intro s f m
  refine ⟨f, m, ?_, fun h => h.trans s.seqAdvance_faults.symm, fun h => h.trans s.seqAdvance_ob.symm⟩
  cases hphase : s.phase with
  | idle | sof | eof => simp only [State.seqAdvance, withFaultsOb, hphase]
  | hdr | res | ck =>
    simp only [State.seqAdvance, withFaultsOb_phase, withFaultsOb_nib, hphase]
    split <;> rfl
  | pay =>
    simp only [State.seqAdvance, withFaultsOb_phase, withFaultsOb_nib, withFaultsOb_k,
      withFaultsOb_surface, hphase]
    by_cases hmore : s.k.toNat + 1 < s.surface.payloadBytes
    · simp only [hmore, if_true]
      split <;> rfl
    · simp only [hmore, if_false]
      split <;> rfl

end State.Blind

/-- A command chooses what it does by CFG, W and H, never by FAULTS or OB. -/
theorem exec_blind (i : Instr) (s : State) :
    ∃ u, State.Blind u ∧ ∀ f m, exec i (s.withFaultsOb f m) = .next (u (s.withFaultsOb f m)) := by
  by_cases hrefused : s.cfg = false ∧ ∀ w h a, i ≠ .create w h a
  case pos => exact ⟨_, .raise .notConfigured, fun f m => exec_of_not_cfg hrefused.1 hrefused.2⟩
  have hcfg (hi : ∀ w h a, i ≠ .create w h a) : s.cfg = true := by
    rw [← Bool.not_eq_false]
    exact fun h => hrefused ⟨h, hi⟩
  cases i with
  | create w h a =>
    cases hc : s.cfg with
    | true => exact ⟨_, .raise .alreadyConfigured, fun f m => exec_create_of_cfg hc⟩
    | false =>
      by_cases haddr : 16 ≤ a.toNat
      · exact ⟨_, .raise (.invalidAddress a), fun f m => exec_create_of_badAddress hc haddr⟩
      · by_cases hzero : w = 0 ∨ h = 0
        · exact ⟨_, .raise .invalidDimensions, fun f m =>
            exec_create_of_badDimension hc (Nat.not_le.1 haddr) hzero⟩
        · obtain ⟨hw, hh⟩ := not_or.1 hzero
          exact ⟨_, .comp (.respond 0 0) (.configure w h a), fun f m =>
            exec_create_of_legal hc (Nat.not_le.1 haddr) hw hh⟩
  | setPixel x y v =>
    cases hclips : s.surface.clips x y with
    | true =>
      exact ⟨_, .respond 0 0, fun f m =>
        exec_setPixel_of_clips (s := s.withFaultsOb f m) (hcfg nofun) hclips v⟩
    | false =>
      exact ⟨_, .comp (.respond 0 0) (.putPixel x y v), fun f m =>
        exec_setPixel_of_not_clips (s := s.withFaultsOb f m) (hcfg nofun) hclips v⟩
  | dimensions =>
    exact ⟨_, .respond 0 (dimensionsValue s.w s.h), fun f m => exec_dimensions_of_cfg (hcfg nofun)⟩
  | frameSize =>
    exact ⟨_, .respond 0 (lengthValue s.surface.frameLength), fun f m =>
      exec_frameSize_of_cfg (hcfg nofun)⟩
  | encodeInto cap =>
    by_cases hcap : cap.toNat < s.surface.frameLength
    · exact ⟨_, .raise (.bufferTooSmall cap), fun f m => exec_encodeInto_of_small (hcfg nofun) hcap⟩
    · exact ⟨_, .startBufferFill cap, fun f m =>
        exec_encodeInto_of_fits (hcfg nofun) (Nat.not_lt.1 hcap)⟩
  | encodeToSink => exact ⟨_, .startStream, fun f m => exec_encodeToSink_of_cfg (hcfg nofun)⟩

/-- So does a sequencer step that answers: by MODE, POS, CAPR and SINK. -/
theorem seqStep_blind {p : PortInputs} {s t : State} (h : seqStep p s = .next t) :
    ∃ u, State.Blind u ∧
      ∀ f m, seqStep p (s.withFaultsOb f m) = .next (u (s.withFaultsOb f m)) := by
  rcases seqStep_cases h with ⟨hmode, hpos, -⟩ | ⟨hmode, hanswer, -⟩ | ⟨hmode, hanswer, -⟩ |
    ⟨hmode, hanswer, -⟩
  · refine ⟨_, .comp .seqAdvance .byteOut, fun f m => ?_⟩
    rw [State.byteOut_buffer (s := s.withFaultsOb f m) hmode]
    exact emitThen_buffer hmode hpos
  · exact ⟨_, .comp .seqAdvance .byteOut, fun f m => seqStep_accept hmode hanswer⟩
  · exact ⟨_, .raise .sinkWriteFailure, fun f m => seqStep_error hmode hanswer⟩
  · exact ⟨_, .refl, fun f m => seqStep_notYet hmode hanswer⟩

theorem cycle_blind {p : PortInputs} {s t : State} (h : cycle p s = .next t) :
    ∃ u, State.Blind u ∧ ∀ f m, cycle p (s.withFaultsOb f m) = .next (u (s.withFaultsOb f m)) := by
  rcases cycle_cases h with ⟨hrst, -⟩ | ⟨hrst, hidle, hcmd, -⟩ | ⟨c, i, hrst, hidle, hcmd, hdec, -⟩ |
    ⟨c, why, hrst, hidle, hcmd, hdec, -⟩ | ⟨hrst, hbusy, hseq⟩
  · exact ⟨_, .applyReset, fun f m => cycle_reset hrst⟩
  · exact ⟨_, .refl, fun f m => cycle_wait hrst hidle hcmd⟩
  · obtain ⟨u, hu, hexec⟩ := exec_blind i s
    refine ⟨u, hu, fun f m => ?_⟩
    rw [cycle_accept (s := s.withFaultsOb f m) hrst hidle hcmd, acceptWord, hdec]
    exact hexec f m
  · refine ⟨_, .raise (.illegalCommand c), fun f m => ?_⟩
    rw [cycle_accept (s := s.withFaultsOb f m) hrst hidle hcmd, acceptWord, hdec]
  · obtain ⟨u, hu, hseq'⟩ := seqStep_blind hseq
    exact ⟨u, hu, fun f m => (cycle_busy (s := s.withFaultsOb f m) hrst hbusy).trans (hseq' f m)⟩

/-- A step with other contents in FAULTS and OB. -/
theorem cycle_withFaultsOb {p : PortInputs} {s t : State} (h : cycle p s = .next t) (f : BitVec 8)
    (m : Memory) :
    ∃ g m', cycle p (s.withFaultsOb f m) = .next (t.withFaultsOb g m') ∧
      (f = s.faults → g = t.faults) ∧ (m = s.ob → m' = t.ob) := by
  obtain ⟨u, hblind, hu⟩ := cycle_blind h
  have ht : t = u s := Host.Outcome.next.inj (h.symm.trans (hu s.faults s.ob))
  obtain ⟨g, m', heq, hg, hm'⟩ := hblind s f m
  rw [← ht] at heq hg hm'
  exact ⟨g, m', (hu f m).trans (congrArg _ heq), hg, hm'⟩

/-- Settles O50: with the same OB the step leaves the same OB. -/
theorem noStepReadsFaults : Obligations.NoStepReadsFaults := by
  intro s t f hstep
  obtain ⟨g, m', hcycle, -, hob⟩ := cycle_withFaultsOb hstep f s.portAdvance.ob
  rw [hob rfl] at hcycle
  exact ⟨g, hcycle⟩

/-- Settles O51: with the same FAULTS the step leaves the same FAULTS. -/
theorem noStepReadsOb : Obligations.NoStepReadsOb := by
  intro s t m hstep
  obtain ⟨g, m', hcycle, hfaults, -⟩ :=
    cycle_withFaultsOb hstep s.faults (m.hostWrites s.portNow.obWrites)
  rw [hfaults rfl] at hcycle
  exact ⟨m', hcycle⟩

/-- Settles O53: HOST's writes reach nothing but OB, which the step does not read. -/
theorem hostWritesChangeOnlyOb : Obligations.HostWritesChangeOnlyOb := by
  intro s t p rest ws hstep
  obtain ⟨g, m', hcycle, hfaults, -⟩ := cycle_withFaultsOb hstep s.faults (s.ob.hostWrites ws)
  rw [hfaults rfl] at hcycle
  exact ⟨m', hcycle⟩

end Sys2Proof.Machine
end

section
/-! PROOFS. The run of an encode (43_frame_composer.md R117 to R129). `State.EncodesAt` says where an encode is that a
state accepts in its next step, some steps and some bytes later; the acceptance begins it, a byte step and
a wait keep it, and the statements about whole encodes read it off at their last step. -/

namespace Sys2Proof.Machine

/-- `t` stands `n` steps after the acceptance, in the next step of `s`, of an encode in the mode `mode`,
with `k` bytes of the frame out (43_frame_composer.md R120, R127, R131). -/
structure State.EncodesAt (s : State) (mode : OutMode) (n k : Nat) (t : State) : Prop where
  inv : t.Inv
  plan : ∀ j, t.portAt j = s.portAt (n + 1 + j)
  mode_eq : t.mode = mode
  pos : t.pos.toNat = k
  surface : t.surface = s.surface
  cfg : t.cfg = s.cfg
  faults : t.faults = s.faults
  snkPast : t.snkPast = s.snkPast
  /-- nothing is answered before the last byte -/
  busy : k < s.surface.frame.length →
    t.phase ≠ .idle ∧ t.resp = s.resp ∧ t.responses = s.responses
  /-- the last byte ends the command with the response `(0, L)` -/
  ended : k = s.surface.frame.length →
    t.phase = .idle ∧ t.sum = s.surface.sumBody ∧
      t.resp = ⟨0, BitVec.ofNat 32 s.surface.frame.length⟩ ∧
      t.responses = s.responses ++ [⟨0, BitVec.ofNat 32 s.surface.frame.length⟩]
  /-- an encode into OB appends nothing to SNK -/
  bufferSnk : mode = .bufferFill → t.snk = s.snk
  /-- an encode to SINK appends the bytes to SNK -/
  streamSnk : mode = .stream → t.snk = s.snk ++ s.surface.frame.take k
  /-- an encode into OB leaves the bytes there, where HOST keeps off them -/
  bufferOb : mode = .bufferFill → s.HostKeepsOff s.surface.frame.length n →
    ∀ o < k, t.ob.read o = s.surface.frame[o]?
  /-- an encode into OB writes nothing beyond the frame -/
  bufferFarOb : mode = .bufferFill → ∀ o, s.surface.frame.length ≤ o →
    t.ob.read o = (s.hostOb (n + 1)).read o
  /-- an encode to SINK writes nothing to OB -/
  streamOb : mode = .stream → t.ob = s.hostOb (n + 1)

theorem Surface.frame_length_pos (S : Surface) : 0 < S.frame.length := by
  rw [S.frame_length]
  omega

theorem Surface.lengthValue_eq (S : Surface) :
    lengthValue S.frameLength = BitVec.ofNat 32 S.frame.length := by
  rw [lengthValue, S.frameLength_eq_length]

/-- After a step that touches the plan no further the coming steps are numbered one lower. -/
theorem State.portAt_of_plan {s t : State} (hinputs : t.inputs = s.portAdvance.inputs)
    (hdraws : t.draws = s.portAdvance.draws) (j : Nat) : t.portAt j = s.portAt (j + 1) :=
  (State.portAt_congr hinputs hdraws j).trans (s.portAt_portAdvance j)

/-! Acceptance. -/

theorem step_of_command {s : State} {i : Instr} (hidle : s.phase = .idle)
    (hrst : (s.portAt 0).rst = false) (hpresent : s.PresentsAt 0 (encode i)) :
    step s = exec i s.portAdvance :=
  step_of_decode hidle hrst hpresent (decode_encode i)

section

variable {s : State}

theorem encodeInto_starts {cap : BitVec 28} (hinv : s.Inv) (hidle : s.phase = .idle)
    (hcfg : s.cfg = true) (hcap : s.surface.frame.length ≤ cap.toNat)
    (hpresent : s.PresentsAt 0 (encode (.encodeInto cap))) (hrst : (s.portAt 0).rst = false) :
    ∃ t, step s = .next t ∧ s.EncodesAt .bufferFill 0 0 t := by
  have hstep : step s = .next (s.portAdvance.startBufferFill cap) := by
    rw [step_of_command hidle hrst hpresent]
    exact exec_encodeInto_of_fits hcfg (s.surface.frameLength_eq_length ▸ hcap)
  refine ⟨_, hstep, ⟨hinv.step hstep, fun j => ?_, rfl, rfl, rfl, rfl, rfl, rfl, fun _ => ?_,
    fun hend => ?_, fun _ => rfl, nofun, nofun, fun _ o _ => rfl, nofun⟩⟩
  · exact (State.portAt_of_plan rfl rfl j).trans (congrArg s.portAt (by omega))
  · exact ⟨nofun, rfl, rfl⟩
  · exact absurd hend s.surface.frame_length_pos.ne

theorem encodeToSink_starts (hinv : s.Inv) (hidle : s.phase = .idle) (hcfg : s.cfg = true)
    (hpresent : s.PresentsAt 0 (encode .encodeToSink)) (hrst : (s.portAt 0).rst = false) :
    ∃ t, step s = .next t ∧ s.EncodesAt .stream 0 0 t := by
  have hstep : step s = .next s.portAdvance.startStream := by
    rw [step_of_command hidle hrst hpresent]
    exact exec_encodeToSink_of_cfg hcfg
  refine ⟨_, hstep, ⟨hinv.step hstep, fun j => ?_, rfl, rfl, rfl, rfl, rfl, rfl, fun _ => ?_,
    fun hend => ?_, nofun, fun _ => (List.append_nil _).symm, nofun, nofun, fun _ => rfl⟩⟩
  · exact (State.portAt_of_plan rfl rfl j).trans (congrArg s.portAt (by omega))
  · exact ⟨nofun, rfl, rfl⟩
  · exact absurd hend s.surface.frame_length_pos.ne

end

/-! One more step. -/

namespace State.EncodesAt

variable {s t : State} {mode : OutMode} {n k : Nat}

theorem portNow (h : s.EncodesAt mode n k t) : t.portNow = s.portAt (n + 1) := h.plan 0

theorem plan_succ (h : s.EncodesAt mode n k t) {u : State} (hinputs : u.inputs = t.portAdvance.inputs)
    (hdraws : u.draws = t.portAdvance.draws) (j : Nat) : u.portAt j = s.portAt (n + 1 + 1 + j) := by
  rw [State.portAt_of_plan hinputs hdraws, h.plan]
  congr 1
  omega

/-- ENC stands at the byte `k` when it takes its next step. -/
theorem placedAt (h : s.EncodesAt mode n k t) (hk : k < s.surface.frame.length) :
    t.portAdvance.byteOut.PlacedAt k := by
  obtain ⟨hbusy, -, -⟩ := h.busy hk
  rw [← h.pos]
  exact (h.inv.portAdvance.sequencer hbusy).placedAt.byteOut

/-- A byte that is not the last leaves the encode in progress. -/
theorem busy_succ (h : s.EncodesAt mode n k t) (hk : k + 1 < s.surface.frame.length) :
    t.portAdvance.byteOut.seqAdvance.phase ≠ .idle ∧
      t.portAdvance.byteOut.seqAdvance.resp = s.resp ∧
      t.portAdvance.byteOut.seqAdvance.responses = s.responses := by
  have hk' : k < s.surface.frame.length := Nat.lt_of_succ_lt hk
  obtain ⟨hbusy, hresp, hresponses⟩ := h.busy hk'
  rcases State.seqAdvance_response (s := t.portAdvance.byteOut) hbusy with
    ⟨hbusy', hresp', hresponses'⟩ | ⟨-, -, hidle, -, -⟩
  · exact ⟨hbusy', hresp'.trans hresp, hresponses'.trans hresponses⟩
  · obtain ⟨hlast, -⟩ := (h.placedAt hk').seqAdvance_ends hbusy hidle
    rw [State.byteOut_surface, State.portAdvance_surface, h.surface] at hlast
    omega

/-- The last byte ends the command. -/
theorem ended_succ (h : s.EncodesAt mode n k t) (hk : k + 1 = s.surface.frame.length) :
    t.portAdvance.byteOut.seqAdvance.phase = .idle ∧
      t.portAdvance.byteOut.seqAdvance.sum = s.surface.sumBody ∧
      t.portAdvance.byteOut.seqAdvance.resp = ⟨0, BitVec.ofNat 32 s.surface.frame.length⟩ ∧
      t.portAdvance.byteOut.seqAdvance.responses =
        s.responses ++ [⟨0, BitVec.ofNat 32 s.surface.frame.length⟩] := by
  have hk' : k < s.surface.frame.length := by omega
  obtain ⟨hbusy, -, hresponses⟩ := h.busy hk'
  have hplace := h.placedAt hk'
  have hsurface : t.portAdvance.byteOut.surface = s.surface := h.surface
  have hidle : t.portAdvance.byteOut.seqAdvance.phase = .idle := by
    by_contra hbusy'
    have hinv := h.inv.portAdvance
    have hpayload := hinv.payloadBytes_pos (hinv.sequencer hbusy).configured
    have hlt := (hplace.seqAdvance hbusy hpayload hbusy').lt_frame_length hbusy'
    rw [State.seqAdvance_surface, hsurface] at hlt
    omega
  obtain ⟨-, hsum, hresp, hresponses'⟩ := hplace.seqAdvance_ends hbusy hidle
  rw [hsurface, Surface.lengthValue_eq] at hresp hresponses'
  rw [hsurface] at hsum
  refine ⟨hidle, hsum, hresp, hresponses'.trans ?_⟩
  rw [State.byteOut_responses, State.portAdvance_responses, hresponses]

/-- A byte step: the byte always goes out into OB, and to SINK when it accepts. -/
theorem byte_step (h : s.EncodesAt mode n k t) (hk : k < s.surface.frame.length)
    (hrst : (s.portAt (n + 1)).rst = false)
    (haccept : mode = .stream → sinkAnswer (s.portAt (n + 1)) = .accept) :
    ∃ u, step t = .next u ∧ s.EncodesAt mode (n + 1) (k + 1) u := by
  obtain ⟨hbusy, -, -⟩ := h.busy hk
  rw [← h.portNow] at hrst haccept
  have hstep : step t = .next t.portAdvance.byteOut.seqAdvance := by
    cases mode with
    | bufferFill => exact step_buffer h.inv hbusy h.mode_eq hrst
    | stream => exact step_accept hbusy h.mode_eq hrst (haccept rfl)
  have hseq := h.inv.portAdvance.sequencer hbusy
  have hnext : (t.pos + 1).toNat = k + 1 := by
    rw [← h.pos]
    exact hseq.pos_succ hbusy
  refine ⟨_, hstep, {
    inv := h.inv.step hstep
    plan := h.plan_succ (by simp) (by simp)
    mode_eq := by simpa using h.mode_eq
    pos := by simpa using hnext
    surface := by simpa using h.surface
    cfg := by simpa using h.cfg
    faults := by simpa using h.faults
    snkPast := by simpa using h.snkPast
    busy := h.busy_succ
    ended := h.ended_succ
    bufferSnk := ?bufferSnk
    streamSnk := ?streamSnk
    bufferOb := ?bufferOb
    bufferFarOb := ?bufferFarOb
    streamOb := ?streamOb }⟩
  case bufferSnk =>
    intro hmode
    rw [State.seqAdvance_snk, State.byteOut_buffer (s := t.portAdvance) (h.mode_eq.trans hmode)]
    exact h.bufferSnk hmode
  case streamSnk =>
    intro hmode
    have htake := hseq.frame_take_succ hbusy
    rw [State.portAdvance_pos, hnext, State.portAdvance_surface, h.surface, h.pos] at htake
    rw [State.seqAdvance_snk, State.byteOut_stream (s := t.portAdvance) (h.mode_eq.trans hmode),
      State.snkPut_snk, State.portAdvance_snk, h.streamSnk hmode, htake, List.append_assoc]
  case bufferOb =>
    intro hmode hkeeps o ho
    rcases Nat.lt_succ_iff_lt_or_eq.1 ho with hlt | rfl
    · have hoff : ∀ c ∈ t.portNow.obWrites, c.1.toNat ≠ o := by
        intro c hc
        rw [h.portNow] at hc
        exact ((hlt.trans hk).trans_le (hkeeps (n + 1) (by omega) le_rfl c hc)).ne'
      rw [read_step_other (h.pos ▸ hlt.ne), Memory.read_hostWrites_other _ hoff]
      exact h.bufferOb hmode (fun j hj hjn => hkeeps j hj (by omega)) o hlt
    · rw [← h.pos, h.inv.read_step_buffer hbusy (h.mode_eq.trans hmode), h.surface]
  case bufferFarOb =>
    intro hmode o ho
    have hne : o ≠ t.pos.toNat := by
      rw [h.pos]
      exact (hk.trans_le ho).ne'
    rw [read_step_other hne, h.portNow]
    exact Memory.read_hostWrites_congr _ (h.bufferFarOb hmode o ho)
  case streamOb =>
    intro hmode
    rw [State.seqAdvance_ob, State.byteOut_stream (s := t.portAdvance) (h.mode_eq.trans hmode),
      State.snkPut_ob, State.portAdvance_ob, h.streamOb hmode, h.portNow]
    rfl

/-- A step at which SINK does not answer: the offer stands (20_memory.md R37). -/
theorem wait_step (h : s.EncodesAt .stream n k t) (hk : k < s.surface.frame.length)
    (hrst : (s.portAt (n + 1)).rst = false) (hwait : sinkAnswer (s.portAt (n + 1)) = .notYet) :
    ∃ u, step t = .next u ∧ s.EncodesAt .stream (n + 1) k u := by
  obtain ⟨hbusy, -, -⟩ := h.busy hk
  rw [← h.portNow] at hrst hwait
  have hstep : step t = .next t.portAdvance := step_notYet hbusy h.mode_eq hrst hwait
  refine ⟨_, hstep, {
    inv := h.inv.step hstep
    plan := h.plan_succ rfl rfl
    mode_eq := h.mode_eq
    pos := h.pos
    surface := h.surface
    cfg := h.cfg
    faults := h.faults
    snkPast := h.snkPast
    busy := h.busy
    ended := h.ended
    bufferSnk := nofun
    streamSnk := h.streamSnk
    bufferOb := nofun
    bufferFarOb := nofun
    streamOb := fun hmode => ?_ }⟩
  rw [State.portAdvance_ob, h.streamOb hmode, h.portNow]
  rfl

end State.EncodesAt

/-- A run with one more step at its end. -/
theorem run_snoc {s t u : State} {n : Nat} (hrun : core.run n s = .next t) (hstep : step t = .next u) :
    core.run (n + 1) s = .next u :=
  (run_add n 1 s hrun).trans (run_one hstep)

/-! The run of ENCODE_INTO. -/

theorem encodeInto_run {s : State} {cap : BitVec 28} (hinv : s.Inv) (hidle : s.phase = .idle)
    (hcfg : s.cfg = true) (hcap : s.surface.frame.length ≤ cap.toNat)
    (hpresent : s.PresentsAt 0 (encode (.encodeInto cap))) {n : Nat}
    (hn : n ≤ s.surface.frame.length) (hrst : s.NoResetFor (n + 1)) :
    ∃ t : State, core.run (n + 1) s = .next t ∧ s.EncodesAt .bufferFill n n t := by
  induction n with
  | zero =>
    obtain ⟨t, hstep, ht⟩ := encodeInto_starts hinv hidle hcfg hcap hpresent (hrst 0 Nat.one_pos)
    exact ⟨t, run_one hstep, ht⟩
  | succ n ih =>
    obtain ⟨t, hrun, ht⟩ := ih (Nat.le_of_succ_le hn) fun j hj => hrst j (Nat.lt_succ_of_lt hj)
    obtain ⟨u, hstep, hu⟩ := ht.byte_step hn (hrst (n + 1) (Nat.lt_succ_self _)) nofun
    exact ⟨u, run_snoc hrun hstep, hu⟩

/-- Settles O37: the run of L byte steps. -/
theorem encodeIntoWritesTheFrame : Obligations.EncodeIntoWritesTheFrame := by
  intro s cap hinv hidle hcfg hcap hpresent hrst
  obtain ⟨t, hrun, ht⟩ := encodeInto_run hinv hidle hcfg hcap hpresent le_rfl hrst
  obtain ⟨hidle', hsum, hresp, hresponses⟩ := ht.ended rfl
  exact ⟨t, hrun, ht.bufferOb rfl, ht.bufferFarOb rfl, hidle', ht.pos, hsum, hresp, hresponses,
    ht.surface, ht.cfg, ht.faults, ht.bufferSnk rfl, ht.snkPast⟩

/-! The run of ENCODE_TO_SINK. -/

theorem State.acceptsIn_succ_of_accept {s : State} {n : Nat}
    (h : sinkAnswer (s.portAt (n + 1)) = .accept) : s.acceptsIn (n + 1) = s.acceptsIn n + 1 := by
  rw [acceptsIn, if_pos h]

theorem State.acceptsIn_succ_of_not_accept {s : State} {n : Nat}
    (h : sinkAnswer (s.portAt (n + 1)) ≠ .accept) : s.acceptsIn (n + 1) = s.acceptsIn n := by
  rw [acceptsIn, if_neg h, Nat.add_zero]

theorem State.acceptsIn_le_succ (s : State) (n : Nat) : s.acceptsIn n ≤ s.acceptsIn (n + 1) :=
  Nat.le_add_right _ _

/-- While SINK has accepted fewer than L bytes, and given no error, the encode is in progress. -/
theorem encodeToSink_run {s : State} (hinv : s.Inv) (hidle : s.phase = .idle) (hcfg : s.cfg = true)
    (hpresent : s.PresentsAt 0 (encode .encodeToSink)) {n : Nat} (hrst : s.NoResetFor (n + 1))
    (herr : s.NoSinkErrorFor n) (hlt : s.acceptsIn n < s.surface.frame.length) :
    ∃ t : State, core.run (n + 1) s = .next t ∧ s.EncodesAt .stream n (s.acceptsIn n) t := by
  induction n with
  | zero =>
    obtain ⟨t, hstep, ht⟩ := encodeToSink_starts hinv hidle hcfg hpresent (hrst 0 Nat.one_pos)
    exact ⟨t, run_one hstep, ht⟩
  | succ n ih =>
    have hlt' := (s.acceptsIn_le_succ n).trans_lt hlt
    have hrst' := hrst (n + 1) (Nat.lt_succ_self _)
    obtain ⟨t, hrun, ht⟩ := ih (fun j hj => hrst j (Nat.lt_succ_of_lt hj))
      (fun j hj hjn => herr j hj (Nat.le_succ_of_le hjn)) hlt'
    cases hanswer : sinkAnswer (s.portAt (n + 1)) with
    | accept =>
      obtain ⟨u, hstep, hu⟩ := ht.byte_step hlt' hrst' fun _ => hanswer
      rw [State.acceptsIn_succ_of_accept hanswer]
      exact ⟨u, run_snoc hrun hstep, hu⟩
    | error => exact absurd hanswer (herr (n + 1) n.succ_pos le_rfl)
    | notYet =>
      obtain ⟨u, hstep, hu⟩ := ht.wait_step hlt' hrst' hanswer
      rw [State.acceptsIn_succ_of_not_accept (by rw [hanswer]; nofun)]
      exact ⟨u, run_snoc hrun hstep, hu⟩

/-- The step at which SINK accepts the last byte ends the encode. -/
theorem encodeToSink_run_ends {s : State} (hinv : s.Inv) (hidle : s.phase = .idle)
    (hcfg : s.cfg = true) (hpresent : s.PresentsAt 0 (encode .encodeToSink)) {n : Nat}
    (hrst : s.NoResetFor (n + 1)) (herr : s.NoSinkErrorFor n)
    (hall : s.acceptsIn n = s.surface.frame.length) (hlast : sinkAnswer (s.portAt n) = .accept) :
    ∃ t : State, core.run (n + 1) s = .next t ∧ s.EncodesAt .stream n s.surface.frame.length t := by
  cases n with
  | zero => exact absurd hall s.surface.frame_length_pos.ne
  | succ n =>
    rw [State.acceptsIn_succ_of_accept hlast] at hall
    have hlt : s.acceptsIn n < s.surface.frame.length := by omega
    obtain ⟨t, hrun, ht⟩ := encodeToSink_run hinv hidle hcfg hpresent
      (fun j hj => hrst j (Nat.lt_succ_of_lt hj))
      (fun j hj hjn => herr j hj (Nat.le_succ_of_le hjn)) hlt
    obtain ⟨u, hstep, hu⟩ := ht.byte_step hlt (hrst (n + 1) (Nat.lt_succ_self _)) fun _ => hlast
    rw [hall] at hu
    exact ⟨u, run_snoc hrun hstep, hu⟩

/-- Settles O38: SINK's last acceptance ends the encode. -/
theorem encodeToSinkSendsTheFrame : Obligations.EncodeToSinkSendsTheFrame := by
  intro s n hinv hidle hcfg hpresent hrst herr hall hlast
  obtain ⟨t, hrun, ht⟩ := encodeToSink_run_ends hinv hidle hcfg hpresent hrst herr hall hlast
  obtain ⟨hidle', hsum, hresp, hresponses⟩ := ht.ended rfl
  refine ⟨t, hrun, ?_, hidle', ht.pos, hsum, hresp, hresponses, ht.surface, ht.cfg, ht.faults,
    ht.snkPast, ht.streamOb rfl⟩
  rw [ht.streamSnk rfl, List.take_length]

/-- Settles O40: the encode in progress. -/
theorem unfinishedStreamStaysBusy : Obligations.UnfinishedStreamStaysBusy := by
  intro s n hinv hidle hcfg hpresent hrst herr hlt
  obtain ⟨t, hrun, ht⟩ := encodeToSink_run hinv hidle hcfg hpresent hrst herr hlt
  obtain ⟨hbusy, hresp, hresponses⟩ := ht.busy hlt
  exact ⟨t, hrun, hbusy, ht.streamSnk rfl, ht.pos, hresp, hresponses, ht.faults, ht.surface, ht.cfg,
    ht.streamOb rfl⟩

/-- Settles O39: the encode in progress, and the step that aborts it. -/
theorem sinkErrorLeavesAPrefix : Obligations.SinkErrorLeavesAPrefix := by
  intro s n hinv hidle hcfg hpresent hrst herr hlt herror
  obtain ⟨t, hrun, ht⟩ := encodeToSink_run hinv hidle hcfg hpresent
    (fun j hj => hrst j (Nat.lt_succ_of_lt hj)) herr hlt
  obtain ⟨hbusy, -, hresponses⟩ := ht.busy hlt
  have hrst' := hrst (n + 1) (Nat.lt_succ_self _)
  rw [← ht.portNow] at hrst' herror
  refine ⟨_, run_snoc hrun (step_error hbusy ht.mode_eq hrst' herror), ht.streamSnk rfl, rfl, ht.pos,
    rfl, ?_, ?_, ht.surface, ht.cfg, ht.snkPast, ?_⟩
  · exact congrArg (· ++ _) hresponses
  · exact congrArg (· ||| _) ht.faults
  · rw [State.raise_ob, State.portAdvance_ob, ht.streamOb rfl, ht.portNow]
    rfl

/-! Two encodes one after the other. -/

/-- A SINK that accepts every byte. -/
theorem State.acceptsIn_of_all {s : State} {n : Nat}
    (h : ∀ j, 1 ≤ j → j ≤ n → sinkAnswer (s.portAt j) = .accept) : s.acceptsIn n = n := by
  induction n with
  | zero => rfl
  | succ n ih =>
    rw [acceptsIn_succ_of_accept (h (n + 1) n.succ_pos le_rfl),
      ih fun j hj hjn => h j hj (Nat.le_succ_of_le hjn)]

/-- To a SINK that accepts every byte an encode takes L byte steps. -/
theorem encodeToSink_run_all {s : State} (hinv : s.Inv) (hidle : s.phase = .idle)
    (hcfg : s.cfg = true) (hpresent : s.PresentsAt 0 (encode .encodeToSink))
    (hrst : s.NoResetFor (s.surface.frame.length + 1))
    (haccept : ∀ j, 1 ≤ j → j ≤ s.surface.frame.length → sinkAnswer (s.portAt j) = .accept) :
    ∃ t : State, core.run (s.surface.frame.length + 1) s = .next t ∧
      s.EncodesAt .stream s.surface.frame.length s.surface.frame.length t := by
  refine encodeToSink_run_ends hinv hidle hcfg hpresent hrst (fun j hj hjn => ?_)
    (State.acceptsIn_of_all haccept) (haccept _ s.surface.frame_length_pos le_rfl)
  rw [haccept j hj hjn]
  nofun

/-- An ENCODE_TO_SINK right after an encode of `s` has ended, to a SINK that accepts every byte. -/
theorem State.EncodesAt.then_encodeToSink {s t : State} {mode : OutMode}
    (ht : s.EncodesAt mode s.surface.frame.length s.surface.frame.length t) (hcfg : s.cfg = true)
    (hpresent : s.PresentsAt (s.surface.frame.length + 1) (encode .encodeToSink))
    (hrst : s.NoResetFor (2 * s.surface.frame.length + 2))
    (haccept : ∀ j, s.surface.frame.length + 2 ≤ j → j < 2 * s.surface.frame.length + 2 →
      sinkAnswer (s.portAt j) = .accept) :
    ∃ u : State, core.run (s.surface.frame.length + 1) t = .next u ∧
      t.EncodesAt .stream s.surface.frame.length s.surface.frame.length u := by
  obtain ⟨hidle, -, -, -⟩ := ht.ended rfl
  have hrun := encodeToSink_run_all ht.inv hidle (ht.cfg.trans hcfg)
    (by rw [PresentsAt, ht.plan]; exact hpresent)
  rw [ht.surface] at hrun
  refine hrun (fun j hj => ?_) fun j hj hjn => ?_
  · rw [ht.plan]
    exact hrst _ (by omega)
  · rw [ht.plan]
    exact haccept _ (by omega) (by omega)

theorem run_two_encodes {s t u : State} {l : Nat} (hfirst : core.run (l + 1) s = .next t)
    (hsecond : core.run (l + 1) t = .next u) : core.run (2 * l + 2) s = .next u := by
  have hsteps : 2 * l + 2 = (l + 1) + (l + 1) := by omega
  rw [hsteps, run_add _ _ s hfirst, hsecond]

/-- Settles O42: the frame is a function of W, H, ADDR and FB, which the first encode keeps. -/
theorem encodingTwiceSendsTheSameFrame : Obligations.EncodingTwiceSendsTheSameFrame := by
  intro s hinv hidle hcfg hpresent hpresent' hrst haccept
  obtain ⟨t, hfirst, ht⟩ := encodeToSink_run_all hinv hidle hcfg hpresent
    (fun j hj => hrst j (by omega)) fun j hj hjn => haccept j hj (by omega) (by omega)
  obtain ⟨u, hsecond, hu⟩ := ht.then_encodeToSink hcfg hpresent' hrst
    fun j hj hjn => haccept j (by omega) hjn (by omega)
  obtain ⟨hidle', -, -, -⟩ := hu.ended (by rw [ht.surface])
  refine ⟨u, run_two_encodes hfirst hsecond, hidle', ?_⟩
  rw [hu.streamSnk rfl, ht.streamSnk rfl, ht.surface, List.take_length]

/-- HOST's writes leave an offset alone that none of them is to. -/
theorem State.read_hostOb_of_keepsOff {s : State} {l n o : Nat} (ho : o < l)
    (hkeeps : ∀ j < n, KeepsOff (s.portAt j) l) : (s.hostOb n).read o = s.ob.read o := by
  induction n with
  | zero => rfl
  | succ n ih =>
    have hoff : ∀ c ∈ (s.portAt n).obWrites, c.1.toNat ≠ o :=
      fun c hc => (ho.trans_le (hkeeps n (Nat.lt_succ_self n) c hc)).ne'
    rw [hostOb, Memory.read_hostWrites_other _ hoff]
    exact ih fun j hj => hkeeps j (Nat.lt_succ_of_lt hj)

/-- Settles O41: both encodes emit the frame of the same surface, and the second writes nothing to OB. -/
theorem bufferAndStreamAgree : Obligations.BufferAndStreamAgree := by
  intro s cap hinv hidle hcfg hcap hpresent hpresent' hrst haccept
  obtain ⟨t, hfirst, ht⟩ := encodeInto_run hinv hidle hcfg hcap hpresent le_rfl
    fun j hj => hrst j (by omega)
  obtain ⟨u, hsecond, hu⟩ := ht.then_encodeToSink hcfg hpresent' hrst haccept
  obtain ⟨htidle, -, -, -⟩ := ht.ended rfl
  obtain ⟨huidle, -, -, -⟩ := hu.ended (by rw [ht.surface])
  have hsnk : u.snk = s.snk ++ s.surface.frame := by
    rw [hu.streamSnk rfl, ht.bufferSnk rfl, ht.surface, List.take_length]
  refine ⟨t, u, hfirst, run_two_encodes hfirst hsecond, htidle, huidle, ?_, fun o ho => ?_⟩
  · rw [hsnk, List.length_append]
  · have hbyte := List.getElem?_eq_getElem ho
    refine ⟨s.surface.frame[o], ?_, fun hkeeps => ?_, fun hkeeps => ?_⟩
    · rw [hsnk, List.getElem?_append_right (Nat.le_add_right _ _), Nat.add_sub_cancel_left, hbyte]
    · rw [ht.bufferOb rfl hkeeps o ho, hbyte]
    · rw [hu.streamOb rfl, State.read_hostOb_of_keepsOff ho, ht.bufferOb rfl, hbyte]
      · exact fun j hj hjn => hkeeps j hj (by omega)
      · exact ho
      · intro j hj
        rw [ht.plan]
        exact hkeeps _ (by omega) (by omega)

end Sys2Proof.Machine
end
